-- ==== Sys2Proof/Word.lean ====
section
/-! DEFINITION. The widths of the controller: a register is a byte, a command word is 16 bits, an identifier is
8 bytes in storage order (R5, R6 of 00_scope.md; R90 of 30_encoding.md). -/

namespace Sys2Proof

/-- A register of the controller: 8 bits, bit 0 least significant (R5). -/
abbrev Byte := BitVec 8

/-- A command word `CW[15:0]` (R90). -/
abbrev CmdWord := BitVec 16

/-- An identifier `ID[0..7]` in STORAGE order: `ID[7]` is the family code, `ID[0]` the checksum (R6). -/
abbrev Identifier := Vector Byte 8

end Sys2Proof
end

