-- ==== Sys2Proof/Syntax.lean ====
section
/-! DEFINITION. The commands of the controller: one constructor per row of the opcode table (R92, R112 of
30_encoding.md). -/

namespace Sys2Proof

/-- One command. A format-S command has two rows of the table, the `ROM` form and the `REC[n]` form (R96, R112). -/
inductive Instr where
  /-- `OWRST`: the reset slot (R122). -/
  | owrst
  /-- `OWRB`: one read slot (R125). -/
  | owrb
  /-- `OWWB b`: one write slot (R128). -/
  | owwb (b : Bool)
  /-- `OWRBY`: read one byte (R144). -/
  | owrby
  /-- `OWWBY imm8`: write one byte (R142). -/
  | owwby (imm8 : Byte)
  /-- `CRC8 ROM` (R153). -/
  | crc8Rom
  /-- `CRC8 REC[idx]` (R153). -/
  | crc8Rec (idx : BitVec 7)
  /-- `SRCHRST`: soft reset of the search state (R161). -/
  | srchrst
  /-- `SRCHNXT`: one search pass (R162). -/
  | srchnxt
  /-- `SELECT ROM` (R191). -/
  | selectRom
  /-- `SELECT REC[idx]` (R191). -/
  | selectRec (idx : BitVec 7)
  /-- `CONVRD ROM`: convert, wait, read (R200). -/
  | convrdRom
  /-- `CONVRD REC[idx]` (R200). -/
  | convrdRec (idx : BitVec 7)
  /-- `TDEC`: decode the temperature (R210). -/
  | tdec
  /-- `CFGDEV ROM`: write the configuration bytes (R213). -/
  | cfgdevRom
  /-- `CFGDEV REC[idx]` (R213). -/
  | cfgdevRec (idx : BitVec 7)
  /-- `ENUM`: fill the Sensor Record (R215). -/
  | enumerate
  deriving DecidableEq, Repr

end Sys2Proof
end

