-- ==== Sys2Proof/Decode.lean ====
section
/-! DEFINITION. The decoder, total on all 65536 words (R98 of 30_encoding.md), and after it the encoder and the
opcode table's rows. A record selector's test against `NREC` reads state (R97) and stands with the selector's
use, `State.selected` of Machine/Operands.lean. -/

namespace Sys2Proof

/-- Why a word is no command (R99, R93, R94, R97). -/
inductive Reject where
  /-- Opcode 0x00 or 0x0E to 0xFF (R99). -/
  | reservedOpcode (opcode : Byte)
  /-- A must-be-zero bit of format N or B is set (R93, R94). -/
  | mustBeZero (operand : Byte)
  /-- `src = 1` with a non-zero `idx` (R97). -/
  | romSelectorIndex (idx : BitVec 7)
  deriving DecidableEq, Repr

/-- `CW[15:8]` (R90). -/
def opcodeField (w : CmdWord) : Byte := w.extractLsb' 8 8

/-- `CW[7:0]` (R90). -/
def operandField (w : CmdWord) : Byte := w.extractLsb' 0 8

/-- Format N: the operand field must be 0x00 (R93). -/
def formatN (operand : Byte) (i : Instr) : Except Reject Instr :=
  if operand = 0 then .ok i else .error (.mustBeZero operand)

/-- Format B: `[7:1]` must be zero, `[0]` is the bit (R94). -/
def formatB (operand : Byte) (mk : Bool → Instr) : Except Reject Instr :=
  if operand.extractLsb' 1 7 = 0#7 then .ok (mk (operand.getLsbD 0)) else .error (.mustBeZero operand)

/-- Format S: `[7]` is `src`, `[6:0]` is `idx`; with `src = 1` the index must be 0 (R91, R96, R97). -/
def formatS (operand : Byte) (rom : Instr) (entry : BitVec 7 → Instr) : Except Reject Instr :=
  let idx := operand.extractLsb' 0 7
  if operand.getLsbD 7 then
    if idx = 0 then .ok rom else .error (.romSelectorIndex idx)
  else .ok (entry idx)

/-- The opcode map (R92): look the opcode up, then check the operand field by the format's rule (R98). -/
def decode (w : CmdWord) : Except Reject Instr :=
  let operand := operandField w
  match (opcodeField w).toNat with
  | 0x01 => formatN operand .owrst
  | 0x02 => formatN operand .owrb
  | 0x03 => formatB operand .owwb
  | 0x04 => formatN operand .owrby
  | 0x05 => .ok (.owwby operand)
  | 0x06 => formatS operand .crc8Rom .crc8Rec
  | 0x07 => formatN operand .srchrst
  | 0x08 => formatN operand .srchnxt
  | 0x09 => formatS operand .selectRom .selectRec
  | 0x0A => formatS operand .convrdRom .convrdRec
  | 0x0B => formatN operand .tdec
  | 0x0C => formatS operand .cfgdevRom .cfgdevRec
  | 0x0D => formatN operand .enumerate
  | _ => .error (.reservedOpcode (opcodeField w))

/-- The instruction the decoder reads from a table row's word. A command is one 16-bit word presented whole, so
there are no later words and no byte order (R67 of 20_memory.md, R90). -/
def decodeTableWord (nbits w : Nat) : Option Instr :=
  match decode (BitVec.ofNat 16 (w % 2 ^ nbits)) with
  | .ok i => some i
  | .error _ => none

/-- The opcode of a command (R92). -/
def Instr.opcode : Instr → Byte
  | .owrst => 0x01
  | .owrb => 0x02
  | .owwb _ => 0x03
  | .owrby => 0x04
  | .owwby _ => 0x05
  | .crc8Rom => 0x06
  | .crc8Rec _ => 0x06
  | .srchrst => 0x07
  | .srchnxt => 0x08
  | .selectRom => 0x09
  | .selectRec _ => 0x09
  | .convrdRom => 0x0A
  | .convrdRec _ => 0x0A
  | .tdec => 0x0B
  | .cfgdevRom => 0x0C
  | .cfgdevRec _ => 0x0C
  | .enumerate => 0x0D

/-- The operand field of the `REC[idx]` form: `src = 0` over `idx` (R91, R96). -/
def entryOperand (idx : BitVec 7) : Byte := 0#1 ++ idx

/-- The operand field of a command (R91): zero for format N, the bit, the byte, or the selector. -/
def Instr.operand : Instr → Byte
  | .owrst => 0x00
  | .owrb => 0x00
  | .owwb b => if b then 0x01 else 0x00
  | .owrby => 0x00
  | .owwby imm8 => imm8
  | .crc8Rom => 0x80
  | .crc8Rec idx => entryOperand idx
  | .srchrst => 0x00
  | .srchnxt => 0x00
  | .selectRom => 0x80
  | .selectRec idx => entryOperand idx
  | .convrdRom => 0x80
  | .convrdRec idx => entryOperand idx
  | .tdec => 0x00
  | .cfgdevRom => 0x80
  | .cfgdevRec idx => entryOperand idx
  | .enumerate => 0x00

/-- The word of a command: `CW[15:8]` the opcode, `CW[7:0]` the operand field (R90). -/
def encode (i : Instr) : CmdWord := i.opcode ++ i.operand

/-- A row of the opcode table: a word `w` has the row's form exactly when `w &&& mask = pattern` (R112). -/
structure OpcodeRow where
  mnemonic : String
  pattern : CmdWord
  mask : CmdWord
  deriving DecidableEq, Repr

/-- The table's row of each form (R112; `match` and `mask` of opcode_table.json). -/
def Instr.row : Instr → OpcodeRow
  | .owrst => ⟨"OWRST", 0x0100, 0xFFFF⟩
  | .owrb => ⟨"OWRB", 0x0200, 0xFFFF⟩
  | .owwb _ => ⟨"OWWB", 0x0300, 0xFFFE⟩
  | .owrby => ⟨"OWRBY", 0x0400, 0xFFFF⟩
  | .owwby _ => ⟨"OWWBY", 0x0500, 0xFF00⟩
  | .crc8Rom => ⟨"CRC8_ROM", 0x0680, 0xFFFF⟩
  | .crc8Rec _ => ⟨"CRC8_REC_n", 0x0600, 0xFF80⟩
  | .srchrst => ⟨"SRCHRST", 0x0700, 0xFFFF⟩
  | .srchnxt => ⟨"SRCHNXT", 0x0800, 0xFFFF⟩
  | .selectRom => ⟨"SELECT_ROM", 0x0980, 0xFFFF⟩
  | .selectRec _ => ⟨"SELECT_REC_n", 0x0900, 0xFF80⟩
  | .convrdRom => ⟨"CONVRD_ROM", 0x0A80, 0xFFFF⟩
  | .convrdRec _ => ⟨"CONVRD_REC_n", 0x0A00, 0xFF80⟩
  | .tdec => ⟨"TDEC", 0x0B00, 0xFFFF⟩
  | .cfgdevRom => ⟨"CFGDEV_ROM", 0x0C80, 0xFFFF⟩
  | .cfgdevRec _ => ⟨"CFGDEV_REC_n", 0x0C00, 0xFF80⟩
  | .enumerate => ⟨"ENUM", 0x0D00, 0xFFFF⟩

/-- The word has the row's form (R112). -/
def OpcodeRow.covers (r : OpcodeRow) (w : CmdWord) : Bool := w &&& r.mask = r.pattern

end Sys2Proof
end

