-- ==== Sys2Proof/Config.lean ====
section
/-! DEFINITION. What is fixed for this controller (R3 of 00_scope.md) and what the spec leaves open: open
parameters and the free answers of the bus are constants without a body. -/

namespace Sys2Proof

/-- `MAXDEV`, the capacity of the Sensor Record (R3). -/
def Config.maxDev : Nat := 3

/-- `FAMILY`, the family code that enters the Sensor Record (R3, R216). -/
def Config.family : Byte := 0x28

/-- `CMD_SEARCH` (R3, R106). PRESUMED value (G1), log entry 6. -/
def Config.cmdSearch : Byte := 0xF0

/-- `CMD_MATCH` (R3, R106). PRESUMED value (G1), log entry 6. -/
def Config.cmdMatch : Byte := 0x55

/-- `CMD_CONVERT` (R3, R106). PRESUMED value (G1), log entry 6. -/
def Config.cmdConvert : Byte := 0x44

/-- `CMD_READ_SP` (R3, R106). PRESUMED value (G1), log entry 6. -/
def Config.cmdReadSp : Byte := 0xBE

/-- `CMD_WRITE_SP` (R3, R106). PRESUMED value (G1), log entry 6. -/
def Config.cmdWriteSp : Byte := 0x4E

/-- `CFG_RES`, the byte that selects 9-bit resolution (R3, R214). PRESUMED value (G2), log entry 6. -/
def Config.cfgRes : Byte := 0x1F

/-- `CFG_TH`, the first threshold byte: OPEN (R3, R214), log entry 7. -/
opaque Config.cfgTh : Byte

/-- `CFG_TL`, the second threshold byte: OPEN (R3, R214), log entry 7. -/
opaque Config.cfgTl : Byte

/-- `T_POLL`, microseconds between two completion polls: OPEN (R3, R201), log entry 7. Timing only. -/
opaque Config.tPoll : Nat

/-- `F_CLK`, the block's clock: OPEN (R3); nothing depends on it (N7), log entry 7. -/
opaque Config.fClk : Nat

/-- The sub-delays of the slots, `T_A` to `T_J`, and the poll back-off `T_POLL` (R3, R132, R201). -/
inductive SubDelay where
  | a | b | c | d | e | f | g | h | i | j | poll
  deriving DecidableEq, Repr

/-- Microseconds of each sub-delay (R132). PRESUMED values (G3), log entry 9; no rule depends on them. -/
def Config.micros : SubDelay → Nat
  | .a => 6 | .b => 64 | .c => 60 | .d => 10 | .e => 9
  | .f => 55 | .g => 0 | .h => 480 | .i => 70 | .j => 410
  | .poll => Config.tPoll

/-- The level of the released line at the `n`-th sample point for which the environment has queued no answer
(`true` = high): a FREE VALUE, any value per slot (R74 of 20_memory.md; U8), log entry 2. -/
opaque Config.freeLevel : Nat → Bool

end Sys2Proof
end

