-- ==== Sys2Proof/Machine/State.lean ====
section
/-! DEFINITION. The controller's state as plain data (R20 of 10_state.md), with the environment's inputs (answers
of the bus, moves of the host) as lists the step reads, and its value right after reset (R45). -/

namespace Sys2Proof.Machine

/-- `SST`, the search state machine (R25, R163). The codes are given by `SearchState.code`. -/
inductive SearchState where
  | idle | searching | deviceFound | noDevice | busError
  deriving DecidableEq, Repr

/-- The encoding of `SST` (R25). -/
def SearchState.code : SearchState → Byte
  | .idle => 0 | .searching => 1 | .deviceFound => 2 | .noDevice => 3 | .busError => 4

/-- `RCODE`, the result of the last command (R32, R231). The codes are given by `ResultCode.code`. -/
inductive ResultCode where
  | ok | busAbsent | searchAnomaly | crcMismatch | illegal
  deriving DecidableEq, Repr

/-- The encoding of `RCODE` (R32). -/
def ResultCode.code : ResultCode → Byte
  | .ok => 0x00 | .busAbsent => 0x01 | .searchAnomaly => 0x02 | .crcMismatch => 0x03 | .illegal => 0x04

/-- One slot on the bus, as the event history records it (R62 of 20_memory.md): a reset slot that returned `p`, a
write slot of `b`, a read slot that returned `b`. -/
inductive Event where
  | rst (p : Bool)
  | w (b : Bool)
  | r (b : Bool)
  deriving DecidableEq, Repr

/-- A command still running at the end of a step of the model: one of the two whose loop has no bound (R30, R204,
R222). `CONVRD` read its identifier when it started (R96). -/
inductive InFlight where
  /-- `CONVRD` in its completion poll (R201). -/
  | poll (id : Identifier)
  /-- `ENUM` between two passes (R215). -/
  | enumerate
  deriving DecidableEq, Repr

/-- A coming move of the host or of the environment. Log entries 1, 11, 12, 13. -/
inductive HostMove where
  /-- The host writes register `n` (R40, R42). Register 0xFF is the command port and takes all 16 bits (R90); a byte
  register takes bits 7 to 0. -/
  | write (n : Byte) (data : CmdWord)
  /-- The host reads register `n` (R40, R42). -/
  | read (n : Byte)
  /-- The host does nothing in this step. -/
  | quiet
  /-- The environment sets `IMASK` outside the controller's slots (R35). -/
  | irqMask (b : Bool)
  /-- `rst_n` is asserted (R260). -/
  | reset
  /-- `rst_n` is asserted during the controller's next step, once that step has performed `slots` slots, or at its
  end where it performs fewer (R260: a reset ends a running command at once). -/
  | resetAfter (slots : Nat)
  deriving DecidableEq, Repr

/-- The state: the registers of R20, the command in flight, and the inputs and records of the model. -/
structure State where
  /-- `ROM[0..7]`, the identifier buffer (R22). -/
  rom : Identifier
  /-- `LCP`, values 0 to 64 (R31). -/
  lcp : BitVec 7
  /-- `LDF`, the terminal flag (R29). -/
  ldf : Bool
  /-- `SST` (R25). -/
  sst : SearchState
  /-- `REC[0..MAXDEV-1]`, the Sensor Record (R33). -/
  record : Vector Identifier Config.maxDev
  /-- `NREC`, values 0 to `MAXDEV` (R33). -/
  nrec : Byte
  /-- `SP0`, the low byte of the Scratchpad Read (R23). -/
  sp0 : Byte
  /-- `SP1`, the high byte of the Scratchpad Read (R23). -/
  sp1 : Byte
  /-- `RES`, the result byte (R23). -/
  res : Byte
  /-- `TEMP`, read as two's complement (R210). -/
  temp : Byte
  /-- `PRES` (R26). -/
  pres : Bool
  /-- `BIT` (R27). -/
  bit : Bool
  /-- `CRCV` (R28). -/
  crcv : Bool
  /-- `RCODE` (R32). -/
  rcode : ResultCode
  /-- `DRV`: the controller pulls the line low (R34). -/
  drv : Bool
  /-- `IMASK`: asynchronous interruption sources are disabled (R35). -/
  imask : Bool
  /-- The command still running, if any: `BUSY` is that there is one (R30, `State.busy`, log entry 10). -/
  inflight : Option InFlight
  /-- The event history, oldest first (R62). -/
  history : List Event
  /-- The model's own: the environment's queued answers, the level of the released line at each coming sample point,
  `true` = high (R74). Log entry 2. -/
  samples : List Bool
  /-- The model's own: how many free answers have been taken. Log entry 2. -/
  freeTaken : Nat
  /-- The model's own: the coming moves of host and environment, first move first. Log entry 1. -/
  host : List HostMove
  /-- The model's own: what the host's register reads delivered, oldest first. Log entry 16. -/
  hostReads : List Byte
  deriving DecidableEq, Repr

/-- `BUSY` (R30). -/
def State.busy (s : State) : Bool := s.inflight.isSome

/-- Reasons the machine stops with a fault: NONE. The controller has no exceptions and every failure is a result
code (R230, R239 of 60_exceptions.md), so the type has no constructor, which is safe. -/
inductive Fault where
  deriving DecidableEq, Repr

/-- Reasons a step has no meaning. -/
inductive Refusal where
  /-- Raised by an arm of `exec` whose instruction has no meaning yet; no arm is left that does. Safe. -/
  | notModelled (mnemonic : String)
  deriving DecidableEq, Repr

/-- The state right after `rst_n` (R45, R260). `IMASK` is the environment's (R45): DESIGN CHOICE `false` here, log
entry 4. The model's own fields start empty: DESIGN CHOICE, log entries 1, 2, 16. -/
def State.reset : State where
  rom := Vector.replicate 8 0
  lcp := 0
  ldf := false
  sst := .idle
  record := Vector.replicate Config.maxDev (Vector.replicate 8 0)
  nrec := 0
  sp0 := 0
  sp1 := 0
  res := 0
  temp := 0
  pres := false
  bit := false
  crcv := false
  rcode := .ok
  drv := false
  imask := false
  inflight := none
  history := []
  samples := []
  freeTaken := 0
  host := []
  hostReads := []

end Sys2Proof.Machine
end

