-- ==== Sys2Proof/Machine/Operands.lean ====
section
/-! DEFINITION. The operand forms: bits of a byte, wire order and wire bits of an identifier (R6, R64, R65, R171),
and the identifier selector (R96, R97). -/

namespace Sys2Proof.Machine

/-- The bits of a byte in slot order, bit 0 first (R64). -/
def byteBits (v : Byte) : List Bool := (List.range 8).map fun i => v.getLsbD i

/-- The byte whose bits in slot order are the listed ones (R64). -/
def byteOfBits (bs : List Bool) : Byte := BitVec.ofNat 8 (bs.foldr (fun b n => 2 * n + b.toNat) 0)

/-- `v[i] <- b`. -/
def setBit (v : Byte) (i : Nat) (b : Bool) : Byte :=
  if b then v ||| (1#8 <<< i) else v &&& ~~~(1#8 <<< i)

/-- The storage index that holds wire bit `c` (R6, R171): `7 - ((c-1) div 8)`. -/
def wireByteIndex (c : Nat) : Fin 8 := ⟨7 - (c - 1) / 8, by omega⟩

/-- The bit within that byte (R6, R171): `(c-1) mod 8`. -/
def wireBitIndex (c : Nat) : Nat := (c - 1) % 8

/-- Wire bit `c` of an identifier, `c = 1..64` (R6). -/
def wireBit (id : Identifier) (c : Nat) : Bool := (id[wireByteIndex c]).getLsbD (wireBitIndex c)

/-- The identifier with wire bit `c` set to `d` (R171). -/
def setWireBit (id : Identifier) (c : Nat) (d : Bool) : Identifier :=
  id.set (wireByteIndex c) (setBit id[wireByteIndex c] (wireBitIndex c) d)

/-- The positions `currentBit = 1..64` of a search pass, in order (R162). -/
def wirePositions : List Nat := List.range' 1 64

/-- The bytes in wire order, `W(0) = ID[7]` first (R6, R65). -/
def wireBytes (id : Identifier) : List Byte := [id[7], id[6], id[5], id[4], id[3], id[2], id[1], id[0]]

/-- The 64 bits of an identifier in slot order (R105). -/
def identifierBits (id : Identifier) : List Bool := (wireBytes id).flatMap byteBits

/-- The identifier selector of format S (R96). -/
inductive Selector where
  | rom
  | entry (idx : BitVec 7)
  deriving DecidableEq, Repr

/-- The selected identifier, or `none` when the selector is illegal (R96, R97): `idx < NREC`, for an entry the record
has (log entry 14). -/
def State.selected (s : State) : Selector → Option Identifier
  | .rom => some s.rom
  | .entry idx => if idx.toNat < s.nrec.toNat then s.record[idx.toNat]? else none

end Sys2Proof.Machine
end

