-- ==== Sys2Proof/Machine/Flags.lean ====
section
/-! DEFINITION. The computations behind flags and results: the CRC (R150, R151 of 43_crc8.md), the temperature decode
(R210), the terminal flag (R167), the direction at a search step (R108, R165), the `STATUS` view (R40, R41). -/

namespace Sys2Proof.Machine

/-- `CrcStep(c, d)` (R151). PRESUMED: the right-shifting form with constant 0x8C (G5), log entry 8. -/
def crcStep (c : Byte) (d : Bool) : Byte :=
  let fb := c.getLsbD 0 ^^ d
  let c := c >>> 1
  if fb then c ^^^ 0x8C#8 else c

/-- `CrcByte(c, v)`: bit 0 first (R150, R151). -/
def crcByte (c v : Byte) : Byte := (byteBits v).foldl crcStep c

/-- `CrcSeq` from the initial value 0x00 (R151). PRESUMED: the initial value (G5), log entry 8. -/
def crcSeq (vs : List Byte) : Byte := vs.foldl crcByte 0x00#8

/-- `Crc8(ID)`: the bytes from index 7 down to 0 (R150, R151). -/
def crc8 (id : Identifier) : Byte := crcSeq (wireBytes id)

/-- The value of `CRCV` after a checksum evaluation (R28, R152). -/
def crcValid (id : Identifier) : Bool := crc8 id = 0

/-- The result code of a checksum evaluation (R153, R168). -/
def crcCode (id : Identifier) : ResultCode := if crcValid id then .ok else .crcMismatch

/-- The decoded temperature (R210): the nibble splice, plus one when the half-degree bit is set, modulo 256. -/
def decodeTemp (sp0 sp1 : Byte) : Byte :=
  let t : Byte := sp1.extractLsb' 0 4 ++ sp0.extractLsb' 4 4
  if sp0.getLsbD 3 then t + 1 else t

/-- The result of a search step that goes on: the direction bit and the new `lastZero`. -/
structure Branch where
  dir : Bool
  lastZero : Nat
  deriving DecidableEq, Repr

/-- The pair code and the direction at a conflict (R108, R164, R165), from the pair `(a, b)`, the position
`currentBit`, the `LCP` on entry, `lastZero`, and the buffer's bit. `none` is the `(1,1)` pair. A conflict resolved
to 0, new or replayed, is remembered (C5). -/
def searchBranch (a b : Bool) (currentBit lcp lastZero : Nat) (old : Bool) : Option Branch :=
  if a && b then none
  else if !a && !b then
    if currentBit = lcp then some ⟨true, lastZero⟩
    else if lcp < currentBit then some ⟨false, currentBit⟩
    else if old then some ⟨true, lastZero⟩
    else some ⟨false, currentBit⟩
  else some ⟨a, lastZero⟩

/-- `LDF` at the end of a complete pass (R167). -/
def terminalFlag (lastZero : Nat) : Bool := lastZero = 0

/-- The `STATUS` view (R40, R41): `BUSY`, `PRES`, `BIT`, `CRCV`, `LDF` in bits 0 to 4, bits 7 to 5 zero. -/
def State.status (s : State) : Byte :=
  0#3 ++ (BitVec.ofBool s.ldf ++ (BitVec.ofBool s.crcv ++ (BitVec.ofBool s.bit ++
    (BitVec.ofBool s.pres ++ BitVec.ofBool s.busy))))

end Sys2Proof.Machine
end

