-- ==== Sys2Proof/Machine/Line.lean ====
section
/-! DEFINITION. The line level (R120, R130 of 41_bit_signaling.md): the actions inside a slot as data, the three slot
programs, what an action does to `DRV`, `IMASK` and the environment's answers, and the time a slot takes (R132). -/

namespace Sys2Proof.Machine

/-- What the engine does inside a slot (R120, R130). -/
inductive LineAction where
  | enterCritical
  | exitCritical
  | driveLow
  | release
  | sample
  | delay (t : SubDelay)
  deriving DecidableEq, Repr

/-- A slot being performed: the state, and the slot's locals `saved` (R130) and `level`, the sample taken (R121,
R124). -/
structure SlotRun where
  st : State
  saved : Bool
  level : Bool
  deriving DecidableEq, Repr

/-- The environment's next answer: the queued level, or a free one when none is queued (R74, log entry 2). -/
def State.takeLevel (s : State) : Bool × State :=
  match s.samples with
  | l :: ls => (l, { s with samples := ls })
  | [] => (Config.freeLevel s.freeTaken, { s with freeTaken := s.freeTaken + 1 })

/-- The level of the line, a wired-AND: high exactly when `DRV = 0` and the devices leave it high (R61). -/
def lineLevel (drv released : Bool) : Bool := !drv && released

/-- `irq_hold`: equal to `IMASK` (R43). -/
def State.irqHold (s : State) : Bool := s.imask

/-- One line-level action (R120, R130). A delay changes no register. -/
def LineAction.run (act : LineAction) (r : SlotRun) : SlotRun :=
  match act with
  | .enterCritical => { r with saved := r.st.imask, st := { r.st with imask := true } }
  | .exitCritical => { r with st := { r.st with imask := r.saved } }
  | .driveLow => { r with st := { r.st with drv := true } }
  | .release => { r with st := { r.st with drv := false } }
  | .sample => { r with level := lineLevel r.st.drv r.st.takeLevel.1, st := r.st.takeLevel.2 }
  | .delay _ => r

/-- A run of actions from a state. The locals hold nothing that matters until they are written. -/
def runActions (acts : List LineAction) (s : State) : SlotRun :=
  acts.foldl (fun r act => act.run r) ⟨s, false, false⟩

/-- `BusReset()` at the line (R121). -/
def resetSlot : List LineAction :=
  [.enterCritical, .delay .g, .driveLow, .delay .h, .release, .delay .i, .sample, .delay .j, .exitCritical]

/-- `BusRead()` at the line (R124). -/
def readSlot : List LineAction :=
  [.enterCritical, .driveLow, .delay .a, .release, .delay .e, .sample, .delay .f, .exitCritical]

/-- `BusWrite(b)` at the line (R127): released early for a 1, held low for a 0. -/
def writeSlot (b : Bool) : List LineAction :=
  if b then [.enterCritical, .driveLow, .delay .a, .release, .delay .b, .exitCritical]
  else [.enterCritical, .driveLow, .delay .c, .release, .delay .d, .exitCritical]

/-- Microseconds of an action (R132). -/
def LineAction.micros : LineAction → Nat
  | .delay t => Config.micros t
  | .enterCritical => 0
  | .exitCritical => 0
  | .driveLow => 0
  | .release => 0
  | .sample => 0

/-- Microseconds of a run of actions (R132). -/
def actionsTime (acts : List LineAction) : Nat := (acts.map LineAction.micros).sum

/-- Microseconds of the slot behind an event (R132). -/
def Event.time : Event → Nat
  | .rst _ => actionsTime resetSlot
  | .r _ => actionsTime readSlot
  | .w b => actionsTime (writeSlot b)

/-- Bus time of a history, without what the environment inserts between slots (R280). -/
def busTime (es : List Event) : Nat := (es.map Event.time).sum

end Sys2Proof.Machine
end

