-- ==== Sys2Proof/Machine/Ops.lean ====
section
/-! DEFINITION. The shared operations: the three slots (R121, R124, R127), the two byte operations (R141, R143), how a
command ends or is rejected (pseudocode primitives of 00_scope.md, R100, R230), the selector's use (R96), host
register access (R40 to R42), hardware reset (R260). -/

namespace Sys2Proof.Machine

/-- Append one event to the history (R62). -/
def State.log (s : State) (e : Event) : State := { s with history := s.history ++ [e] }

/-- `BusReset()` (R121): returns presence, a low sample. -/
def busReset (s : State) : Bool × State :=
  let r := runActions resetSlot s
  (!r.level, r.st.log (.rst (!r.level)))

/-- `BusRead()` (R124): returns the sampled level. -/
def busRead (s : State) : Bool × State :=
  let r := runActions readSlot s
  (r.level, r.st.log (.r r.level))

/-- `BusWrite(b)` (R127). -/
def busWrite (b : Bool) (s : State) : State := (runActions (writeSlot b) s).st.log (.w b)

/-- Write slots of a list of bits, in order. -/
def writeBits (bs : List Bool) (s : State) : State := bs.foldl (fun s b => busWrite b s) s

/-- `WriteByte(v)` (R141): 8 write slots, bit 0 first. -/
def writeByte (v : Byte) (s : State) : State := writeBits (byteBits v) s

/-- Read slots into the listed bits of `v`, in order (R143). -/
def readBitsInto : List Nat → Byte → State → Byte × State
  | [], v, s => (v, s)
  | i :: is, v, s =>
    let r := busRead s
    readBitsInto is (setBit v i r.1) r.2

/-- `ReadByte()` (R143): the first bit sampled becomes bit 0. -/
def readByte (s : State) : Byte × State := readBitsInto (List.range 8) 0x00#8 s

/-- End a command: `RCODE <- c`, `BUSY <- 0`, nothing else. -/
def State.finish (c : ResultCode) (s : State) : State := { s with rcode := c, inflight := none }

/-- `done` (00_scope.md). -/
def State.done (s : State) : State := s.finish .ok

/-- `fail <code>` (00_scope.md; R230). The controller has no trap entry and no return: this is all a failure does
(R239, R240). -/
def State.fail (c : ResultCode) (s : State) : State := s.finish c

/-- Reject a command word: `RCODE <- ILLEGAL` and nothing else (R100). -/
def State.reject (s : State) : State := { s with rcode := .illegal }

/-- Run a command's body on the selected identifier, read once at the start, or reject the word (R96, R97, R100). -/
def withSelected (sel : Selector) (body : Identifier → State → State) (s : State) : State :=
  match s.selected sel with
  | some id => body id s
  | none => s.reject

/-- What the host reads at register `n` (R40, R41). Reserved numbers and the command port read 0. -/
def State.readReg (s : State) (n : Byte) : Byte :=
  match n.toNat with
  | 0x00 => s.status
  | 0x01 => s.rcode.code
  | 0x02 => s.sst.code
  | 0x03 => s.lcp.setWidth 8
  | 0x04 => s.res
  | 0x05 => s.sp0
  | 0x06 => s.sp1
  | 0x07 => s.temp
  | 0x08 => s.nrec
  | k =>
    if 0x10 ≤ k ∧ k < 0x18 then (s.rom[k - 0x10]?).getD 0
    else if 0x20 ≤ k ∧ k < 0x20 + 8 * Config.maxDev then
      (((s.record[(k - 0x20) / 8]?).bind fun e => e[(k - 0x20) % 8]?)).getD 0
    else 0

/-- A host write of a byte register (R40, R42): only `ROM[i]` is writable, every other write is ignored. The command
port is not a byte register. -/
def State.writeReg (s : State) (n v : Byte) : State :=
  if 0x10 ≤ n.toNat ∧ n.toNat < 0x18 then { s with rom := s.rom.setIfInBounds (n.toNat - 0x10) v } else s

/-- `rst_n` (R45, R260): every register at its reset value, the line released, no command in flight. `IMASK` is the
environment's (R261), the event history stands (V91), and the environment's inputs are not the controller's to
clear. -/
def State.hwReset (s : State) : State :=
  { State.reset with
    imask := s.imask, history := s.history, samples := s.samples, freeTaken := s.freeTaken,
    host := s.host, hostReads := s.hostReads }

/-- The level at the `k`-th coming sample point (R74). -/
def State.level (s : State) (k : Nat) : Bool :=
  match s.samples[k]? with
  | some l => l
  | none => Config.freeLevel (s.freeTaken + (k - s.samples.length))

/-- The levels at the `n` sample points from the `k`-th coming one on. -/
def State.levels (s : State) (k n : Nat) : List Bool := (List.range n).map fun i => s.level (k + i)

/-- The environment after `n` answers were taken. -/
def State.skip (n : Nat) (s : State) : State :=
  { s with samples := s.samples.drop n, freeTaken := s.freeTaken + (n - s.samples.length) }

/-- How many answers a slot takes: a write slot asks nothing (R74). -/
def Event.asks : Event → Nat
  | .rst _ => 1
  | .r _ => 1
  | .w _ => 0

/-- How many answers a run of slots takes. -/
def askCount (es : List Event) : Nat := (es.map Event.asks).sum

/-- Everything a run of slots leaves behind: its events in the history, its answers taken, the line released (R34,
R62). -/
def State.bus (es : List Event) (s : State) : State :=
  { s.skip (askCount es) with history := s.history ++ es, drv := false }

end Sys2Proof.Machine
end

