-- ==== Sys2Proof/Machine/BitTiming.lean ====
section
/-! DEFINITION. The bit-timing engine's commands `OWRST`, `OWRB`, `OWWB` (41_bit_signaling.md). -/

namespace Sys2Proof.Machine

/-- The body of `OWRST` (R122). -/
def resetCommand (s : State) : State :=
  let r := busReset s
  let s := { r.2 with pres := r.1 }
  if r.1 then s.done else s.fail .busAbsent

/-- `OWRST` (R122). -/
def execOwrst (s : State) : Host.Outcome State Fault Refusal := .next (resetCommand s)

/-- `OWRB` (R125). -/
def execOwrb (s : State) : Host.Outcome State Fault Refusal :=
  .next (State.done { (busRead s).2 with bit := (busRead s).1 })

/-- `OWWB b` (R128). -/
def execOwwb (b : Bool) (s : State) : Host.Outcome State Fault Refusal := .next (busWrite b s).done

end Sys2Proof.Machine
end

