-- ==== Sys2Proof/Machine/ByteFraming.lean ====
section
/-! DEFINITION. The byte-shift framer's commands `OWWBY`, `OWRBY` (42_byte_framing.md). -/

namespace Sys2Proof.Machine

/-- `OWWBY imm8` (R142). -/
def execOwwby (imm8 : Byte) (s : State) : Host.Outcome State Fault Refusal := .next (writeByte imm8 s).done

/-- `OWRBY` (R144). -/
def execOwrby (s : State) : Host.Outcome State Fault Refusal :=
  .next (State.done { (readByte s).2 with res := (readByte s).1 })

end Sys2Proof.Machine
end

