-- ==== Sys2Proof/Machine/Crc.lean ====
section
/-! DEFINITION. The CRC-8 generator's command `CRC8 sel` (R153 of 43_crc8.md). -/

namespace Sys2Proof.Machine

/-- The body of `CRC8 sel` (R153): no slot, no answer. -/
def crcCommand (id : Identifier) (s : State) : State :=
  State.finish (crcCode id) { s with res := crc8 id, crcv := crcValid id }

/-- `CRC8 ROM` (R153). -/
def execCrc8Rom (s : State) : Host.Outcome State Fault Refusal := .next (withSelected .rom crcCommand s)

/-- `CRC8 REC[idx]` (R153). -/
def execCrc8Rec (idx : BitVec 7) (s : State) : Host.Outcome State Fault Refusal :=
  .next (withSelected (.entry idx) crcCommand s)

end Sys2Proof.Machine
end

