-- ==== Sys2Proof/Machine/RomSearch.lean ====
section
/-! DEFINITION. The ROM binary-search state machine: `SRCHRST`, `SRCHNXT` and the pass they and `ENUM` share
(44_rom_search.md). -/

namespace Sys2Proof.Machine

/-- The soft reset of the search state (R46, R161). It leaves `ROM` alone. -/
def State.clearSearch (s : State) : State := { s with lcp := 0, ldf := false, sst := .idle }

/-- The search state after a failed pass (R169). -/
def State.abortSearch (why : SearchState) (s : State) : State := { s with sst := why, lcp := 0, ldf := false }

/-- One step of a pass at position `currentBit` (R162 step 3, R164 to R166): the new `lastZero`, or `none` after a
`(1,1)` pair, which writes nothing for this bit. -/
def searchBit (lcp currentBit lastZero : Nat) (s : State) : Option Nat × State :=
  let a := busRead s
  let b := busRead a.2
  match searchBranch a.1 b.1 currentBit lcp lastZero (wireBit b.2.rom currentBit) with
  | none => (none, b.2)
  | some br => (some br.lastZero, busWrite br.dir { b.2 with rom := setWireBit b.2.rom currentBit br.dir })

/-- The steps of a pass at the listed positions, in order, ending at the first `(1,1)` pair (R162). -/
def searchBits (lcp : Nat) : List Nat → Nat → State → Option Nat × State
  | [], lastZero, s => (some lastZero, s)
  | c :: cs, lastZero, s =>
    match searchBit lcp c lastZero s with
    | (none, t) => (none, t)
    | (some lz, t) => searchBits lcp cs lz t

/-- The end of a complete pass (R162 step 4, R167, R168): `RES` is not written (R154). -/
def completePass (lastZero : Nat) (s : State) : State :=
  { s with lcp := BitVec.ofNat 7 lastZero, ldf := terminalFlag lastZero, crcv := crcValid s.rom, sst := .deviceFound }

/-- The body of `SRCHNXT` after its precondition (R162): the pass's result code and the state it leaves. `LCP` in the
loop is the value on entry. -/
def searchPass (s : State) : ResultCode × State :=
  let p := busReset { s with sst := .searching }
  if p.1 then
    match searchBits s.lcp.toNat wirePositions 0 (writeByte Config.cmdSearch p.2) with
    | (none, t) => (.searchAnomaly, t.abortSearch .noDevice)
    | (some lastZero, t) => (crcCode t.rom, completePass lastZero t)
  else (.busAbsent, p.2.abortSearch .busError)

/-- The body of `SRCHNXT`: rejected once the terminal flag is set (R170). -/
def searchCommand (s : State) : State :=
  if s.ldf then s.reject else (searchPass s).2.finish (searchPass s).1

/-- `SRCHRST` (R161). -/
def execSrchrst (s : State) : Host.Outcome State Fault Refusal := .next s.clearSearch.done

/-- `SRCHNXT` (R162). -/
def execSrchnxt (s : State) : Host.Outcome State Fault Refusal := .next (searchCommand s)

end Sys2Proof.Machine
end

