-- ==== Sys2Proof/Machine/Session.lean ====
section
/-! DEFINITION. The device session multiplexer: `SELECT`, `CONVRD`, `TDEC`, `CFGDEV`, `ENUM` (45_device_session.md).
The two loops without a bound run one iteration per step of the model (log entry 3). -/

namespace Sys2Proof.Machine

/-- Write the bytes of a list, in order. -/
def writeBytes (vs : List Byte) (s : State) : State := vs.foldl (fun s v => writeByte v s) s

/-- `Select(ID)` (R190): reset; on presence the match command and the identifier, `ID[7]` first. -/
def selectDevice (id : Identifier) (s : State) : Bool × State :=
  let p := busReset s
  if p.1 then (true, writeBytes (wireBytes id) (writeByte Config.cmdMatch p.2)) else (false, p.2)

/-- The body of `SELECT sel` (R191). -/
def selectCommand (id : Identifier) (s : State) : State :=
  let p := selectDevice id s
  let s := { p.2 with pres := p.1 }
  if p.1 then s.done else s.fail .busAbsent

/-- `SELECT ROM` (R191). -/
def execSelectRom (s : State) : Host.Outcome State Fault Refusal := .next (withSelected .rom selectCommand s)

/-- `SELECT REC[idx]` (R191). -/
def execSelectRec (idx : BitVec 7) (s : State) : Host.Outcome State Fault Refusal :=
  .next (withSelected (.entry idx) selectCommand s)

/-- The part of `CONVRD` after the completion poll (R200): select again, read two bytes, end with a reset slot whose
answer is discarded (R203). On a failed selection nothing but `RCODE` is written (R202). -/
def readSession (id : Identifier) (s : State) : State :=
  let p := selectDevice id s
  if p.1 then
    let lo := readByte (writeByte Config.cmdReadSp p.2)
    let hi := readByte lo.2
    State.done { (busReset hi.2).2 with sp0 := lo.1, sp1 := hi.1 }
  else p.2.fail .busAbsent

/-- One completion poll (R201): a 1 ends the loop; after a 0 the controller delays `T_POLL` and is still busy, with
another poll to come (R204). -/
def pollStep (id : Identifier) (s : State) : State :=
  let r := busRead s
  if r.1 then readSession id r.2
  else { (runActions [.delay .poll] r.2).st with inflight := some (.poll id) }

/-- The body of `CONVRD sel` up to and with its first poll (R200). -/
def convertCommand (id : Identifier) (s : State) : State :=
  let p := selectDevice id s
  if p.1 then pollStep id (writeByte Config.cmdConvert p.2) else p.2.fail .busAbsent

/-- `CONVRD ROM` (R200). -/
def execConvrdRom (s : State) : Host.Outcome State Fault Refusal := .next (withSelected .rom convertCommand s)

/-- `CONVRD REC[idx]` (R200). -/
def execConvrdRec (idx : BitVec 7) (s : State) : Host.Outcome State Fault Refusal :=
  .next (withSelected (.entry idx) convertCommand s)

/-- `TDEC` (R210). -/
def execTdec (s : State) : Host.Outcome State Fault Refusal :=
  .next (State.done { s with temp := decodeTemp s.sp0 s.sp1 })

/-- The bytes of the configuration write, in order (R63, R213). -/
def configBytes : List Byte := [Config.cfgTh, Config.cfgTl, Config.cfgRes]

/-- `Configure(ID)` (R213): no reset slot after it. -/
def configure (id : Identifier) (s : State) : Bool × State :=
  let p := selectDevice id s
  if p.1 then (true, writeBytes configBytes (writeByte Config.cmdWriteSp p.2)) else (false, p.2)

/-- The body of `CFGDEV sel` (R213). -/
def configCommand (id : Identifier) (s : State) : State :=
  let p := configure id s
  if p.1 then p.2.done else p.2.fail .busAbsent

/-- `CFGDEV ROM` (R213). -/
def execCfgdevRom (s : State) : Host.Outcome State Fault Refusal := .next (withSelected .rom configCommand s)

/-- `CFGDEV REC[idx]` (R213). -/
def execCfgdevRec (idx : BitVec 7) (s : State) : Host.Outcome State Fault Refusal :=
  .next (withSelected (.entry idx) configCommand s)

/-- The condition of the enumeration loop (R215): `NREC < MAXDEV` and `LDF = 0`. -/
def enumMore (s : State) : Bool := decide (s.nrec.toNat < Config.maxDev) && !s.ldf

/-- What `ENUM` does with a found device (R215, R216, R219): one of the family is recorded and configured, the
configuration's result is ignored; another is skipped. -/
def recordFound (s : State) : State :=
  if s.rom[7] = Config.family then
    (configure s.rom { s with record := s.record.setIfInBounds s.nrec.toNat s.rom, nrec := s.nrec + 1 }).2
  else s

/-- The end of one iteration (R215): the loop's condition is tested; while it holds the command stays in flight. -/
def enumNext (s : State) : State := if enumMore s then { s with inflight := some .enumerate } else s.done

/-- One iteration of the enumeration loop, from the test of its condition on (R215, R217, R218). -/
def enumStep (s : State) : State :=
  if enumMore s then
    match searchPass s with
    | (.busAbsent, t) => t.fail .busAbsent
    | (.searchAnomaly, t) => t.fail .searchAnomaly
    | (_, t) => enumNext (recordFound t)
  else s.done

/-- `ENUM` (R215): the record and the search state are cleared, then the first iteration. -/
def execEnumerate (s : State) : Host.Outcome State Fault Refusal :=
  .next (enumStep (State.clearSearch { s with nrec := 0 }))

/-- The next iteration of the command in flight (R204, R222). -/
def resume (f : InFlight) (s : State) : State :=
  match f with
  | .poll id => pollStep id s
  | .enumerate => enumStep s

end Sys2Proof.Machine
end

