-- ==== Sys2Proof/Machine/Dispatch.lean ====
section
/-! DEFINITION. One arm per command: the meaning each accepted command word has. -/

namespace Sys2Proof.Machine

def exec (i : Instr) (s : State) : Host.Outcome State Fault Refusal :=
  match i with
  | .owrst => Sys2Proof.Machine.execOwrst s
  | .owrb => Sys2Proof.Machine.execOwrb s
  | .owwb b => Sys2Proof.Machine.execOwwb b s
  | .owrby => Sys2Proof.Machine.execOwrby s
  | .owwby imm8 => Sys2Proof.Machine.execOwwby imm8 s
  | .crc8Rom => Sys2Proof.Machine.execCrc8Rom s
  | .crc8Rec idx => Sys2Proof.Machine.execCrc8Rec idx s
  | .srchrst => Sys2Proof.Machine.execSrchrst s
  | .srchnxt => Sys2Proof.Machine.execSrchnxt s
  | .selectRom => Sys2Proof.Machine.execSelectRom s
  | .selectRec idx => Sys2Proof.Machine.execSelectRec idx s
  | .convrdRom => Sys2Proof.Machine.execConvrdRom s
  | .convrdRec idx => Sys2Proof.Machine.execConvrdRec idx s
  | .tdec => Sys2Proof.Machine.execTdec s
  | .cfgdevRom => Sys2Proof.Machine.execCfgdevRom s
  | .cfgdevRec idx => Sys2Proof.Machine.execCfgdevRec idx s
  | .enumerate => Sys2Proof.Machine.execEnumerate s

end Sys2Proof.Machine
end

