-- ==== Sys2Proof/Machine/Port.lean ====
section
/-! DEFINITION. The host port and what happens in one step: the next move of the host or the environment, or the next
iteration of the command in flight (R42, R90, R98, R246, R260). -/

namespace Sys2Proof.Machine

/-- A word written to the command port while idle (R90, R98, R100). -/
def acceptWord (w : CmdWord) (s : State) : Host.Outcome State Fault Refusal :=
  match decode w with
  | .ok i => exec i s
  | .error _ => .next s.reject

/-- A host write (R40, R42, R90). -/
def hostWrite (n : Byte) (data : CmdWord) (s : State) : Host.Outcome State Fault Refusal :=
  if n = 0xFF then acceptWord data s else .next (s.writeReg n (data.setWidth 8))

/-- A host read (R40, R41): the value is delivered, no register changes. -/
def hostRead (n : Byte) (s : State) : State := { s with hostReads := s.hostReads ++ [s.readReg n] }

/-- What the controller does when the host has no move: the next iteration of the command in flight, or nothing
(R247). -/
def proceed (s : State) : State :=
  match s.inflight with
  | some f => resume f s
  | none => s

/-- One step without a reset inside it. The host has no move while `BUSY = 1` (R42, R246): its next write or read then
waits while the command goes on. -/
def advance (s : State) : Host.Outcome State Fault Refusal :=
  match s.host with
  | [] => .next (proceed s)
  | .quiet :: rest => .next (proceed { s with host := rest })
  | .irqMask b :: rest => .next { s with host := rest, imask := b }
  | .reset :: rest => .next (State.hwReset { s with host := rest })
  | .resetAfter _ :: rest => .next (State.hwReset { s with host := rest })
  | .read n :: rest => if s.busy then .next (proceed s) else .next (hostRead n { s with host := rest })
  | .write n data :: rest => if s.busy then .next (proceed s) else hostWrite n data { s with host := rest }

/-- The state left when `rst_n` cuts the step from `s` to `t` after `slots` of its slots (R260, R239): those slots are
in the history and their answers taken, the rest never happened, every register is reset. -/
def cutByReset (slots : Nat) (s t : State) : State :=
  let kept := (t.history.drop s.history.length).take slots
  State.hwReset { (s.skip (askCount kept)) with
    history := s.history ++ kept, imask := t.imask, host := t.host, hostReads := t.hostReads }

/-- One step, with a reset inside it where the environment asserts one (R260). -/
def cycle (s : State) : Host.Outcome State Fault Refusal :=
  match s.host with
  | .resetAfter slots :: rest =>
    match advance { s with host := rest } with
    | .next t => .next (cutByReset slots { s with host := rest } t)
    | .fault f => .fault f
    | .refused r => .refused r
  | _ => advance s

end Sys2Proof.Machine
end

