-- ==== Sys2Proof/Machine/Step.lean ====
section
/-! DEFINITION. One step of the machine, and how the host's check places a command word before it. -/

namespace Sys2Proof.Machine

/-- One step: next, fault or refusal. -/
def step (s : State) : Host.Outcome State Fault Refusal := Sys2Proof.Machine.cycle s

/-- The state in which the host writes the word to the command port next, with no command in flight, so that the very
next step accepts it (R90; log entry 1). -/
def State.withFetchWord (s : State) (nbits w : Nat) : State :=
  { s with inflight := none, host := .write 0xFF (BitVec.ofNat 16 (w % 2 ^ nbits)) :: s.host }

end Sys2Proof.Machine
end

