-- ==== Sys2Proof/Machine/Devices.lean ====
section
/-! DEFINITION. The reference device population (R85 to R89 of 20_memory.md). It is NO part of the controller or of
its state (R74): it says which event histories an ideal population explains, so that a claim about a particular bus
can state its premise. What a device does on a slot R89 leaves undescribed is `none`. Log entry 17. -/

namespace Sys2Proof.Machine

/-- The protocol state of a device (R86 to R88). -/
inductive DevState where
  /-- Ignores everything until the next reset slot (R86). -/
  | idle
  /-- Collects the ROM command byte (R86). -/
  | romCmd (got : List Bool)
  /-- In a search at wire bit `c`, after `reads` reads of the triplet (R87). -/
  | search (c reads : Nat)
  /-- In a match at wire bit `c` (R87). -/
  | matching (c : Nat)
  /-- Selected, collects the function command byte (R88). -/
  | func (got : List Bool)
  /-- Converting, with `left` more polls to answer 0 (R88). -/
  | converting (left : Nat)
  /-- Sends its scratchpad, then 1s (R88). -/
  | sending (bits : List Bool)
  /-- Stores the configuration bytes (R88). -/
  | storing (got : List Bool)
  deriving DecidableEq, Repr

/-- One device of the population (R85). -/
structure Device where
  id : Identifier
  t0 : Byte
  t1 : Byte
  cfg : Vector Byte 3
  busyReads : Nat
  proto : DevState
  deriving DecidableEq, Repr

/-- The protocol state after the ROM command byte (R86). -/
def afterRomByte (v : Byte) : DevState :=
  if v = Config.cmdSearch then .search 1 0
  else if v = Config.cmdMatch then .matching 1
  else .idle

/-- The protocol state after the function command byte (R88). -/
def Device.afterFuncByte (d : Device) (v : Byte) : DevState :=
  if v = Config.cmdConvert then .converting d.busyReads
  else if v = Config.cmdReadSp then .sending ((d.t0 :: d.t1 :: d.cfg.toList).flatMap byteBits)
  else if v = Config.cmdWriteSp then .storing []
  else .idle

/-- The bit a device sends in a read slot; a device that is not sending contributes 1 (R85, R87, R88). -/
def Device.sends (d : Device) : Bool :=
  match d.proto with
  | .search c 0 => wireBit d.id c
  | .search c 1 => !wireBit d.id c
  | .search _ _ => true
  | .converting 0 => true
  | .converting (_ + 1) => false
  | .sending (b :: _) => b
  | .sending [] => true
  | .idle => true
  | .romCmd _ => true
  | .matching _ => true
  | .func _ => true
  | .storing _ => true

/-- A device after a read slot (R87, R88). -/
def Device.read (d : Device) : Option Device :=
  match d.proto with
  | .idle => some d
  | .search c 0 => some { d with proto := .search c 1 }
  | .search c 1 => some { d with proto := .search c 2 }
  | .search _ _ => none
  | .converting 0 => some d
  | .converting (k + 1) => some { d with proto := .converting k }
  | .sending (_ :: bs) => some { d with proto := .sending bs }
  | .sending [] => some d
  | .romCmd _ => none
  | .matching _ => none
  | .func _ => none
  | .storing _ => none

/-- The protocol state after a bit was compared with wire bit `c` (R87). -/
def Device.compare (d : Device) (c : Nat) (b : Bool) (next : DevState) : DevState :=
  if b = wireBit d.id c then (if c = 64 then .func [] else next) else .idle

/-- A device after a write slot of `b` (R86 to R88). -/
def Device.write (b : Bool) (d : Device) : Option Device :=
  match d.proto with
  | .idle => some d
  | .romCmd got =>
    some { d with proto := if got.length = 7 then afterRomByte (byteOfBits (got ++ [b])) else .romCmd (got ++ [b]) }
  | .search c 2 => some { d with proto := d.compare c b (.search (c + 1) 0) }
  | .search _ _ => none
  | .matching c => some { d with proto := d.compare c b (.matching (c + 1)) }
  | .func got =>
    some { d with proto := if got.length = 7 then d.afterFuncByte (byteOfBits (got ++ [b])) else .func (got ++ [b]) }
  | .converting _ => none
  | .sending _ => none
  | .storing got =>
    let all := got ++ [b]
    if got.length = 23 then
      some { d with
        cfg := #v[byteOfBits (all.take 8), byteOfBits ((all.drop 8).take 8), byteOfBits (all.drop 16)], proto := .idle }
    else some { d with proto := .storing all }

/-- A device after a reset slot, from any state (R85, R123). -/
def Device.resetSlot (d : Device) : Device := { d with proto := .romCmd [] }

/-- The population after one event, if the event's answer is the one the population gives (R85). -/
def observe (ds : List Device) : Event → Option (List Device)
  | .rst p => if p = !ds.isEmpty then some (ds.map Device.resetSlot) else none
  | .r b => if b = ds.all Device.sends then ds.mapM Device.read else none
  | .w b => ds.mapM (Device.write b)

/-- The population after a run of events, if it explains every answer in it. -/
def observeAll : List Device → List Event → Option (List Device)
  | ds, [] => some ds
  | ds, e :: es => (observe ds e).bind fun ds' => observeAll ds' es

/-- The answers in the events are those of the population (R85 to R88). -/
def explains (ds : List Device) (es : List Event) : Bool := (observeAll ds es).isSome

end Sys2Proof.Machine
end

