-- ==== Sys2Proof/Safety.lean ====
section
/-! DEFINITION. The terms claims use: the invariant of a reachable state, the named premises about the bus (R76, R75,
R281), and which steps are free of a reset. -/

namespace Sys2Proof.Machine

/-- What holds of every reachable state. -/
structure Inv (s : State) : Prop where
  /-- `LCP` is 0 to 64 (R31). -/
  lcp_range : s.lcp.toNat ≤ 64
  /-- `NREC` is 0 to `MAXDEV` (R20, R33). -/
  nrec_range : s.nrec.toNat ≤ Config.maxDev
  /-- The line is released between slots (R34). -/
  line_released : s.drv = false
  /-- `SST` is never `SEARCHING` between two passes (R25). -/
  not_searching : s.sst ≠ .searching
  /-- Unless a device was found, the search state is that of a fresh enumeration (R161, R169). -/
  search_cleared : s.sst ≠ .deviceFound → s.lcp = 0 ∧ s.ldf = false
  /-- After a find, the terminal flag says that `LCP` is 0 (R29, R167). -/
  found_flag : s.sst = .deviceFound → s.ldf = decide (s.lcp = 0)
  /-- Every entry that can be selected is of the family (R216). -/
  family_recorded : ∀ (n : Nat) (h : n < Config.maxDev), n < s.nrec.toNat → (s.record[n]'h)[7] = Config.family
  /-- An enumeration in flight still has room and is not at its end (R215, R217). -/
  enum_goes_on : s.inflight = some .enumerate → s.nrec.toNat < Config.maxDev ∧ s.ldf = false

/-- `EmptyBus` for the next `n` samples (R76): nobody pulls the line low, so every sample is high. -/
def EmptyBus (n : Nat) (s : State) : Prop := ∀ k, k < n → s.level k = true

/-- A line stuck low for the next `n` samples (R75). -/
def StuckLow (n : Nat) (s : State) : Prop := ∀ k, k < n → s.level k = false

/-- `Echo` of the written bits (R76): the `k`-th coming sample is the `k`-th written bit. -/
def Echo (bs : List Bool) (s : State) : Prop := ∀ k (h : k < bs.length), s.level k = bs[k]

/-- The identifier's checksum is valid (R152). -/
def ValidId (id : Identifier) : Prop := crc8 id = 0

/-- The events a run added to the history. -/
def newEvents (s t : State) : List Event := t.history.drop s.history.length

/-- The two samples of the pair at wire bit `c` of a search pass: sample 0 is the reset slot's, then come the pairs
(R162). -/
def pairA (s : State) (c : Nat) : Bool := s.level (2 * c - 1)

/-- The second sample of the pair at wire bit `c` (R162). -/
def pairB (s : State) (c : Nat) : Bool := s.level (2 * c)

/-- A conflict at wire bit `c` (R108). -/
def conflictAt (s : State) (c : Nat) : Bool := !pairA s c && !pairB s c

/-- Nobody answered at wire bit `c` (R108). -/
def silentAt (s : State) (c : Nat) : Bool := pairA s c && pairB s c

/-- The direction the spec gives at wire bit `c` (R108, R164, R165): forced by the pair, or at a conflict by `LCP` and
the buffer the pass began with. -/
def directionAt (s : State) (c : Nat) : Bool :=
  if conflictAt s c then
    if c = s.lcp.toNat then true
    else if s.lcp.toNat < c then false
    else wireBit s.rom c
  else pairA s c

/-- The events of the pair and the direction bit at wire bit `c` (R162). -/
def tripletAt (s : State) (c : Nat) : List Event := [.r (pairA s c), .r (pairB s c), .w (directionAt s c)]

/-- The write events of a byte, bit 0 first (R104, R141). -/
def wroteByte (v : Byte) : List Event := (byteBits v).map .w

/-- The write events of an identifier in wire order (R105). -/
def wroteIdentifier (id : Identifier) : List Event := (identifierBits id).map .w

/-- The events of a selection that saw presence (R190). -/
def selectedEvents (id : Identifier) : List Event := .rst true :: (wroteByte Config.cmdMatch ++ wroteIdentifier id)

/-- The events of a configuration write that saw presence (R213). -/
def configuredEvents (id : Identifier) : List Event :=
  selectedEvents id ++ (wroteByte Config.cmdWriteSp ++
    (wroteByte Config.cfgTh ++ (wroteByte Config.cfgTl ++ wroteByte Config.cfgRes)))

/-- The eight samples from the `k`-th on as a byte, the first becoming bit 0 (R143). -/
def byteAt (s : State) (k : Nat) : Byte := byteOfBits (s.levels k 8)

/-- The read events of those eight samples (R143). -/
def readAt (s : State) (k : Nat) : List Event := (s.levels k 8).map .r

/-- The events of a session from its second selection on, the first sample of it being the `k`-th (R200). -/
def readSessionEvents (id : Identifier) (s : State) (k : Nat) : List Event :=
  selectedEvents id ++ (wroteByte Config.cmdReadSp ++
    (readAt s (k + 1) ++ (readAt s (k + 9) ++ [.rst (!s.level (k + 17))])))

/-- The state after an iteration of `ENUM` that found a device, from the state `u` the iteration left: while there is
room and the terminal flag is clear the command stays in flight, with `RCODE` still the old one; else it ends `OK`
(R215, R217, R218). -/
def afterIteration (oldCode : ResultCode) (u : State) : State :=
  if u.nrec.toNat < Config.maxDev ∧ u.ldf = false then { u with rcode := oldCode, inflight := some .enumerate }
  else { u with rcode := .ok, inflight := none }

/-- The result codes a command can end with (R232); a record form can also be rejected (R97). -/
def resultCodes : Instr → List ResultCode
  | .owrst => [.ok, .busAbsent]
  | .owrb => [.ok]
  | .owwb _ => [.ok]
  | .owrby => [.ok]
  | .owwby _ => [.ok]
  | .srchrst => [.ok]
  | .tdec => [.ok]
  | .crc8Rom => [.ok, .crcMismatch]
  | .crc8Rec _ => [.ok, .crcMismatch, .illegal]
  | .srchnxt => [.ok, .busAbsent, .searchAnomaly, .crcMismatch, .illegal]
  | .selectRom => [.ok, .busAbsent]
  | .selectRec _ => [.ok, .busAbsent, .illegal]
  | .cfgdevRom => [.ok, .busAbsent]
  | .cfgdevRec _ => [.ok, .busAbsent, .illegal]
  | .convrdRom => [.ok, .busAbsent]
  | .convrdRec _ => [.ok, .busAbsent, .illegal]
  | .enumerate => [.ok, .busAbsent, .searchAnomaly]

/-- The two commands that need not end (R281). -/
def mayHang : Instr → Bool
  | .convrdRom => true
  | .convrdRec _ => true
  | .enumerate => true
  | .owrst => false
  | .owrb => false
  | .owwb _ => false
  | .owrby => false
  | .owwby _ => false
  | .crc8Rom => false
  | .crc8Rec _ => false
  | .srchrst => false
  | .srchnxt => false
  | .selectRom => false
  | .selectRec _ => false
  | .tdec => false
  | .cfgdevRom => false
  | .cfgdevRec _ => false

/-- The states after each of `n` search passes in a row (R174). -/
def passStates : Nat → State → List State
  | 0, _ => []
  | n + 1, s =>
    match exec .srchnxt s with
    | .next t => t :: passStates n t
    | .fault _ => []
    | .refused _ => []

/-- The lexicographic order of the wire-bit strings, wire bit 1 most significant, 0 before 1 (R172). -/
def wireLess (x y : Identifier) : Prop :=
  ∃ c, 1 ≤ c ∧ c ≤ 64 ∧ (∀ k, 1 ≤ k → k < c → wireBit x k = wireBit y k) ∧ wireBit x c = false ∧ wireBit y c = true

/-- The next move resets the controller. -/
def resetNext (s : State) : Prop := ∃ m rest, s.host = m :: rest ∧ (m = .reset ∨ ∃ k, m = .resetAfter k)

end Sys2Proof.Machine
end

