-- ==== Sys2Proof/Certificates/Slice0/Obligations.lean ====
section
/-! DEFINITION. The statements for the provers. A statement about a command's result gives the WHOLE next state as an
update of the old one, so that it is the command's result, its frame and its completion at once; `s.bus es` is the
state after the slots of `es` (its events in the history, its answers taken, the line released). Sample `k` of a
statement is `s.level k`: `true` is a high line. -/

open Sys2Proof Sys2Proof.Machine

/-! ## Encoding -/

/-- R98 (derived): decoding and encoding agree in both directions, so no operand bit is dropped and no two words
decode to the same command with the same operand. -/
def Obligations.DecodeEncodeAgree : Prop :=
  (∀ i : Instr, decode (encode i) = .ok i) ∧ ∀ (w : CmdWord) (i : Instr), decode w = .ok i → encode i = w

/-- R112 (derived): the opcode table's rows are exactly the decoder's forms, and no word has two forms. -/
def Obligations.OpcodeTableIsTheDecoder : Prop :=
  (∀ (w : CmdWord) (i : Instr), decode w = .ok i → i.row.covers w = true) ∧
  (∀ (w : CmdWord) (i : Instr), i.row.covers w = true → ∃ j, decode w = .ok j ∧ j.row = i.row) ∧
  ∀ (w : CmdWord) (i j : Instr), i.row.covers w = true → j.row.covers w = true → i.row = j.row

/-- Opcodes 0x00 and 0x0E to 0xFF are reserved; the all-zero word is not a command (derived: R99 is the spec's own
decision D4). -/
def Obligations.ReservedOpcodesRejected : Prop :=
  (∀ w : CmdWord, (w.toNat / 256 = 0 ∨ 0x0E ≤ w.toNat / 256) → decode w = .error (.reservedOpcode (opcodeField w))) ∧
  ∃ r, decode 0x0000 = .error r

/-- The operand fields of formats N, B and I (derived: R93, R94, R95 are the spec's own decisions D1, D4). -/
def Obligations.OperandFieldsChecked : Prop :=
  (∀ (op : Byte) (x : Byte), op ∈ [0x01#8, 0x02#8, 0x04#8, 0x07#8, 0x08#8, 0x0B#8, 0x0D#8] →
    ((∃ i, decode (op ++ x) = .ok i) ↔ x = 0) ∧ (x ≠ 0 → ∀ s, acceptWord (op ++ x) s = .next { s with rcode := .illegal })) ∧
  (∀ x : Byte, (x.toNat / 2 = 0 → decode (0x03#8 ++ x) = .ok (.owwb (x.getLsbD 0))) ∧
    (x.toNat / 2 ≠ 0 → ∀ s, acceptWord (0x03#8 ++ x) s = .next { s with rcode := .illegal })) ∧
  ∀ x : Byte, decode (0x05#8 ++ x) = .ok (.owwby x)

/-- Words written out (derived; the opcode map R92 is the spec's own decision D1) from the encodings of 30_encoding.md
(V1, R110) decode to their commands. -/
def Obligations.ListedWordsDecode : Prop :=
  decode 0x0100 = .ok .owrst ∧ decode 0x0301 = .ok (.owwb true) ∧ decode 0x05F0 = .ok (.owwby 0xF0) ∧
  decode 0x0680 = .ok .crc8Rom ∧ decode 0x0800 = .ok .srchnxt ∧ decode 0x0901 = .ok (.selectRec 1) ∧
  decode 0x0A00 = .ok (.convrdRec 0) ∧ decode 0x0B00 = .ok .tdec ∧ decode 0x0C80 = .ok .cfgdevRom ∧
  decode 0x0D00 = .ok .enumerate

/-! ## The step, the host port, reset -/

/-- R90 (derived): a word the host writes to register 0xFF while `BUSY = 0` runs the command it decodes to. -/
def Obligations.StepRunsDecodedCommand : Prop :=
  ∀ (s : State) (w : CmdWord) (rest : List HostMove) (i : Instr),
    s.host = .write 0xFF w :: rest → s.busy = false → decode w = .ok i → step s = exec i { s with host := rest }

/-- A rejected word writes `RCODE <- ILLEGAL` and nothing else (derived: R100 is the spec's own decision D4, R97 its
D27). -/
def Obligations.RejectedWordOnlySetsIllegal : Prop :=
  ∀ (s : State) (w : CmdWord) (rest : List HostMove),
    s.host = .write 0xFF w :: rest → s.busy = false →
    ((∃ r, decode w = .error r) ∨
      ∃ idx : BitVec 7, s.nrec.toNat ≤ idx.toNat ∧
        (decode w = .ok (.crc8Rec idx) ∨ decode w = .ok (.selectRec idx) ∨ decode w = .ok (.convrdRec idx) ∨
          decode w = .ok (.cfgdevRec idx))) →
    step s = .next { s with host := rest, rcode := .illegal }

/-- What a selector names and when it is legal (derived: R96, R97 are the spec's own decisions D1, D27). An index that
is below `NREC` and not below `MAXDEV` exists in no state with `Inv` (log entry 14). -/
def Obligations.SelectorLegality : Prop :=
  ∀ s : State, s.selected .rom = some s.rom ∧
    ∀ idx : BitVec 7, (s.nrec.toNat ≤ idx.toNat → s.selected (.entry idx) = none) ∧
      ∀ h : idx.toNat < Config.maxDev, idx.toNat < s.nrec.toNat →
        s.selected (.entry idx) = some (s.record[idx.toNat]'h)

/-- R42 (derived): while `BUSY = 1` the host has no move; its next access waits and the command goes on. The queue of
waiting moves is the model's (log entry 11). -/
def Obligations.HostWaitsWhileBusy : Prop :=
  ∀ (s : State) (m : HostMove) (rest : List HostMove),
    s.host = m :: rest → (∃ n d, m = .write n d) ∨ (∃ n, m = .read n) → s.busy = true →
    step s = .next (proceed s) ∧ (proceed s).host = m :: rest ∧
      (proceed s).hostReads = s.hostReads

/-- R40, R41, R32, R25 (derived: map and codes are the spec's own decisions D2, D3): what each register number reads,
for every state, with the five codes of `RCODE` and the five of `SST`. -/
def Obligations.RegisterMapReads : Prop :=
  ∀ s : State,
    s.readReg 0x01 = (match s.rcode with
      | .ok => 0x00 | .busAbsent => 0x01 | .searchAnomaly => 0x02 | .crcMismatch => 0x03 | .illegal => 0x04) ∧
    s.readReg 0x02 = (match s.sst with
      | .idle => 0x00 | .searching => 0x01 | .deviceFound => 0x02 | .noDevice => 0x03 | .busError => 0x04) ∧
    (s.readReg 0x03).toNat = s.lcp.toNat ∧
    s.readReg 0x04 = s.res ∧ s.readReg 0x05 = s.sp0 ∧ s.readReg 0x06 = s.sp1 ∧ s.readReg 0x07 = s.temp ∧
    s.readReg 0x08 = s.nrec ∧
    ((s.readReg 0x00).getLsbD 0 = s.busy ∧ (s.readReg 0x00).getLsbD 1 = s.pres ∧ (s.readReg 0x00).getLsbD 2 = s.bit ∧
      (s.readReg 0x00).getLsbD 3 = s.crcv ∧ (s.readReg 0x00).getLsbD 4 = s.ldf ∧ (s.readReg 0x00).toNat < 32) ∧
    (∀ (i : Nat) (h : i < 8), s.readReg (BitVec.ofNat 8 (0x10 + i)) = s.rom[i]) ∧
    (∀ (n j : Nat) (hn : n < Config.maxDev) (hj : j < 8),
      s.readReg (BitVec.ofNat 8 (0x20 + 8 * n + j)) = (s.record[n]'hn)[j]) ∧
    ∀ k : Nat, (0x09 ≤ k ∧ k < 0x10) ∨ (0x18 ≤ k ∧ k < 0x20) ∨ (0x20 + 8 * Config.maxDev ≤ k ∧ k < 0x100) →
      s.readReg (BitVec.ofNat 8 k) = 0

/-- R40, R41 (derived): a host read delivers the register and changes no register; a host write changes `ROM[i]` and
nothing else. The 16-bit write port is the model's (log entry 13). -/
def Obligations.HostAccessWhileIdle : Prop :=
  ∀ (s : State) (n : Byte) (rest : List HostMove), s.busy = false →
    (s.host = .read n :: rest →
      step s = .next { s with host := rest, hostReads := s.hostReads ++ [s.readReg n] }) ∧
    ∀ d : CmdWord, s.host = .write n d :: rest → n ≠ 0xFF →
      (∀ i : Fin 8, n.toNat = 0x10 + i.val →
        step s = .next { s with host := rest, rom := s.rom.set i (d.setWidth 8) }) ∧
      ((n.toNat < 0x10 ∨ 0x18 ≤ n.toNat) → step s = .next { s with host := rest })

/-- R247 (derived): with no command running and no move of the host the controller does nothing. -/
def Obligations.IdleControllerDoesNothing : Prop :=
  ∀ s : State, s.host = [] → s.busy = false → step s = .next s

/-- R35 (derived): the environment owns `IMASK` outside slots; its move changes nothing else. -/
def Obligations.EnvironmentOwnsImask : Prop :=
  ∀ (s : State) (b : Bool) (rest : List HostMove), s.host = .irqMask b :: rest →
    step s = .next { s with host := rest, imask := b }

/-- The state after `rst_n`; `IMASK` is not touched (derived: of R45 "every value in this rule is the spec's own", D6;
the model takes them, log entry 5). That the history stays and the environment's inputs stay is V91 and the model's
(log entries 2, 12). -/
def Obligations.HardwareReset : Prop :=
  ∀ (s : State) (rest : List HostMove), s.host = .reset :: rest →
    ∃ t, step s = .next t ∧
      (∀ (i : Nat) (h : i < 8), t.rom[i] = 0) ∧ t.lcp = 0 ∧ t.ldf = false ∧ t.sst = .idle ∧ t.nrec = 0 ∧
      (∀ (n j : Nat) (hn : n < Config.maxDev) (hj : j < 8), (t.record[n]'hn)[j] = 0) ∧ t.sp0 = 0 ∧ t.sp1 = 0 ∧
      t.res = 0 ∧ t.temp = 0 ∧ t.pres = false ∧ t.bit = false ∧ t.crcv = false ∧ t.busy = false ∧ t.rcode = .ok ∧
      t.drv = false ∧ t.imask = s.imask ∧ t.history = s.history ∧ t.host = rest ∧ ∀ k, t.level k = s.level k

/-- R260 (derived: that a reset ends a command at once is the spec's own, D6, D31): a reset during a step leaves this
state and no other: the slots performed before it are in the history and their answers taken, nothing after them
happened, every register is at its reset value (`State.reset`), and `IMASK` and what the host has done are as the step
left them. That a reset falls between two slots and not inside one is the model's (log entry 12). -/
def Obligations.ResetCutsRunningStep : Prop :=
  ∀ (s t : State) (slots : Nat) (rest : List HostMove), s.host = .resetAfter slots :: rest →
    advance { s with host := rest } = .next t →
    ∃ u, step s = .next u ∧
      u = { State.reset with
        imask := t.imask, history := s.history ++ (newEvents s t).take slots, host := t.host, hostReads := t.hostReads,
        samples := u.samples, freeTaken := u.freeTaken } ∧
      ∀ k, u.level k = s.level (askCount ((newEvents s t).take slots) + k)

/-- R230 (derived): no step ends in a fault or a refusal. -/
def Obligations.EveryStepAnswersNext : Prop := ∀ s : State, ∃ t, step s = .next t

/-! ## Slots -/

/-- `IMASK` is 1 from the first action of a slot to its last, and the saved value is back at the end (derived: of
R130, that this covers the trailing delay is the spec's own reading, D10). -/
def Obligations.SlotsRunInCriticalSections : Prop :=
  ∀ (acts : List LineAction), acts ∈ [resetSlot, readSlot, writeSlot false, writeSlot true] →
    ∀ s : State,
      (∀ n, 0 < n → n < acts.length → (runActions (acts.take n) s).st.imask = true) ∧
      (runActions acts s).st.imask = s.imask ∧ (runActions acts s).st.drv = false

/-- R78, R74 (derived): wherever a slot samples, the controller has released the line, so the sample is the
environment's answer. -/
def Obligations.LineReleasedWhenSampled : Prop :=
  ∀ (acts : List LineAction), acts ∈ [resetSlot, readSlot, writeSlot false, writeSlot true] →
    ∀ (s : State) (n : Nat), acts[n]? = some .sample →
      (runActions (acts.take n) s).st.drv = false ∧ (runActions (acts.take (n + 1)) s).level = s.level 0

/-- R122: the reset slot as a command, and its word. -/
def Obligations.OwrstEffect : Prop :=
  decode 0x0100 = .ok .owrst ∧ ∀ s : State, exec .owrst s = .next { s.bus [.rst (!s.level 0)] with
    pres := !s.level 0, rcode := if s.level 0 then .busAbsent else .ok, inflight := none }

/-- R125: the read slot as a command, and its word. -/
def Obligations.OwrbEffect : Prop :=
  decode 0x0200 = .ok .owrb ∧ ∀ s : State,
    exec .owrb s = .next { s.bus [.r (s.level 0)] with bit := s.level 0, rcode := .ok, inflight := none }

/-- R128: the write slot as a command, and its two words. -/
def Obligations.OwwbEffect : Prop :=
  decode 0x0300 = .ok (.owwb false) ∧ decode 0x0301 = .ok (.owwb true) ∧
    ∀ (s : State) (b : Bool), exec (.owwb b) s = .next { s.bus [.w b] with rcode := .ok, inflight := none }

/-! ## Bytes -/

/-- R142: eight write slots, least-significant bit first, and the words. -/
def Obligations.OwwbyEffect : Prop :=
  (∀ v : Byte, decode (0x05#8 ++ v) = .ok (.owwby v)) ∧
    ∀ (s : State) (v : Byte), exec (.owwby v) s = .next { s.bus
    [.w (v.getLsbD 0), .w (v.getLsbD 1), .w (v.getLsbD 2), .w (v.getLsbD 3), .w (v.getLsbD 4), .w (v.getLsbD 5),
      .w (v.getLsbD 6), .w (v.getLsbD 7)] with rcode := .ok, inflight := none }

/-- R144: eight read slots, the first sample becoming bit 0 of `RES`, and the word. -/
def Obligations.OwrbyEffect : Prop :=
  decode 0x0400 = .ok .owrby ∧ ∀ s : State, ∃ v : Byte, (∀ i, i < 8 → v.getLsbD i = s.level i) ∧
    exec .owrby s = .next { s.bus ((List.range 8).map fun i => Event.r (s.level i)) with
      res := v, rcode := .ok, inflight := none }

/-- R145 (derived, as the spec's rule is): on a bus that echoes the written bits, reading a byte after writing it
gives it back. -/
def Obligations.EchoRoundTrip : Prop :=
  ∀ (s t : State) (b : Byte), Echo (byteBits b) s → exec (.owwby b) s = .next t →
    ∃ u, exec .owrby t = .next u ∧ u.res = b

/-- R146 (derived, as the spec's rule is): a byte command produces the events of its eight bit commands. -/
def Obligations.ByteCommandIsEightBitCommands : Prop :=
  ∀ (s : State) (v : Byte),
    (∃ t u, exec (.owwby v) s = .next t ∧
      (Host.Core.run Sys2Proof.core 8 { s with
        inflight := none, host := (byteBits v).map fun b => .write 0xFF (encode (.owwb b)) }) = .next u ∧
      u = { t with host := [] }) ∧
    ∃ t u, exec .owrby s = .next t ∧
      (Host.Core.run Sys2Proof.core 8 { s with
        inflight := none, host := List.replicate 8 (.write 0xFF (encode .owrb)) }) = .next u ∧
      u = { t with host := [], res := s.res, bit := s.level 7 }

/-! ## CRC -/

/-- R153: `CRC8 sel`, for the buffer and for every legal entry; an illegal selector is rejected; and the words. The
function `crc8` rests on the presumed constants of log entry 8. -/
def Obligations.Crc8Effect : Prop :=
  decode 0x0680 = .ok .crc8Rom ∧ (∀ n : BitVec 7, decode (0x0600#16 + n.setWidth 16) = .ok (.crc8Rec n)) ∧
  ∀ s : State,
    let after := fun id : Identifier => { s with
      res := crc8 id, crcv := decide (crc8 id = 0), rcode := if crc8 id = 0 then .ok else .crcMismatch, inflight := none }
    exec .crc8Rom s = .next (after s.rom) ∧
    (∀ (idx : BitVec 7) (h : idx.toNat < Config.maxDev), idx.toNat < s.nrec.toNat →
      exec (.crc8Rec idx) s = .next (after (s.record[idx.toNat]'h))) ∧
    ∀ idx : BitVec 7, s.nrec.toNat ≤ idx.toNat → exec (.crc8Rec idx) s = .next { s with rcode := .illegal }

/-- R152 (derived, as the spec's rule is; the constants of the CRC are presumed, log entry 8): the residue is zero
exactly when the checksum byte is the CRC of the other seven, because feeding the register its own value empties it.
-/
def Obligations.ChecksumByteIsCrcOfTheRest : Prop :=
  (∀ c : Byte, crcByte c c = 0) ∧
  ∀ id : Identifier, crc8 id = 0 ↔ id[0] = crcSeq [id[7], id[6], id[5], id[4], id[3], id[2], id[1]]

/-- R157 (derived, as the spec's rule is; the initial value 0 is presumed, log entry 8): linearity over exclusive-or.
-/
def Obligations.CrcIsLinear : Prop :=
  ∀ x y : Identifier, crc8 (Vector.zipWith (fun a b => a ^^^ b) x y) = crc8 x ^^^ crc8 y

/-- R156, R155 (derived, as the spec's rules are): flipping any one bit of a valid identifier makes it invalid; the
all-zero identifier is valid. -/
def Obligations.CrcDetectsSingleBitFlips : Prop :=
  (∀ (id : Identifier) (c : Nat), crc8 id = 0 → 1 ≤ c → c ≤ 64 → crc8 (setWireBit id c (!wireBit id c)) ≠ 0) ∧
  crc8 (Vector.replicate 8 0) = 0

/-! ## Search -/

/-- R161: `SRCHRST` clears the search state and leaves everything else, `ROM` too; and its word. -/
def Obligations.SrchrstEffect : Prop :=
  decode 0x0700 = .ok .srchrst ∧ ∀ s : State,
    exec .srchrst s = .next { s with lcp := 0, ldf := false, sst := .idle, rcode := .ok, inflight := none }

/-- With the terminal flag set `SRCHNXT` is rejected without bus activity (derived: R170 is the spec's own decision
D14). -/
def Obligations.SrchnxtRejectedAfterLastDevice : Prop :=
  ∀ s : State, s.ldf = true → exec .srchnxt s = .next { s with rcode := .illegal }

/-- R162 (derived): no presence ends the pass before any bit is read. That `LCP` and `LDF` are cleared is the spec's
own decision D13 (R169). -/
def Obligations.SrchnxtBusError : Prop :=
  ∀ s : State, s.ldf = false → s.level 0 = true → exec .srchnxt s = .next { s.bus [.rst false] with
    sst := .busError, lcp := 0, ldf := false, rcode := .busAbsent, inflight := none }

/-- R162, R164 (derived; that `LCP` and `LDF` are cleared and `ROM` keeps the rest is the spec's own decision D13): a
`(1,1)` pair at wire bit `k + 1` ends the pass there; the buffer keeps the bits written before it and its old bits
from it on. -/
def Obligations.SrchnxtNoDevice : Prop :=
  ∀ (s : State) (k : Nat), s.ldf = false → s.level 0 = false → k < 64 →
    (∀ c, 1 ≤ c → c ≤ k → silentAt s c = false) → silentAt s (k + 1) = true →
    ∃ t, exec .srchnxt s = .next t ∧
      (∀ c, 1 ≤ c → c ≤ 64 → wireBit t.rom c = if c ≤ k then directionAt s c else wireBit s.rom c) ∧
      t = { s.bus (.rst true :: (wroteByte Config.cmdSearch ++ ((List.range' 1 k).flatMap (tripletAt s) ++
          [Event.r true, Event.r true]))) with
        rom := t.rom, sst := .noDevice, lcp := 0, ldf := false, rcode := .searchAnomaly, inflight := none }

/-- R162, R164, R166, R168 (derived): a complete pass. `LCP` becomes the last conflict resolved to 0, new or replayed
(the spec's own decision D12), or 0 when there is none; nothing but the named registers changes. -/
def Obligations.SrchnxtDeviceFound : Prop :=
  ∀ s : State, s.ldf = false → s.level 0 = false → (∀ c, 1 ≤ c → c ≤ 64 → silentAt s c = false) →
    ∃ t, exec .srchnxt s = .next t ∧
      (∀ c, 1 ≤ c → c ≤ 64 → wireBit t.rom c = directionAt s c) ∧
      (∀ c, 1 ≤ c → c ≤ 64 → conflictAt s c = true → directionAt s c = false → c ≤ t.lcp.toNat) ∧
      (t.lcp.toNat = 0 ∨ (1 ≤ t.lcp.toNat ∧ t.lcp.toNat ≤ 64 ∧ conflictAt s t.lcp.toNat = true ∧
        directionAt s t.lcp.toNat = false)) ∧
      t = { s.bus (.rst true :: (wroteByte Config.cmdSearch ++ (List.range' 1 64).flatMap (tripletAt s))) with
        rom := t.rom, lcp := t.lcp, ldf := decide (t.lcp = 0), crcv := decide (crc8 t.rom = 0), sst := .deviceFound,
        rcode := if crc8 t.rom = 0 then .ok else .crcMismatch, inflight := none }

/-- R173 (derived): on a bus with exactly one device a pass meets no conflict and completes the enumeration. -/
def Obligations.SingleDeviceFoundInOnePass : Prop :=
  ∀ (s t : State) (d : Device), s.ldf = false → s.lcp = 0 → exec .srchnxt s = .next t →
    explains [d] (newEvents s t) = true →
    (∀ c, 1 ≤ c → c ≤ 64 → conflictAt s c = false) ∧ t.rom = d.id ∧ t.lcp = 0 ∧ t.ldf = true ∧
      t.sst = .deviceFound ∧ t.rcode = if crc8 d.id = 0 then .ok else .crcMismatch

/-- R174, R172 (derived, as the spec's rules are; the population is that of log entry 17): over a population of
distinct valid devices, `SRCHRST` and then as many passes as there are devices find each device once, in increasing
order of the wire-bit strings, and the terminal flag is set by the last pass only. The premise is that the answers in
the events are the population's. -/
def Obligations.EnumerationIsComplete : Prop :=
  ∀ (ds : List Device) (s s0 last : State), ds ≠ [] → (ds.map Device.id).Nodup →
    (∀ d ∈ ds, crc8 d.id = 0) → exec .srchrst s = .next s0 → (passStates ds.length s0).getLast? = some last →
    explains ds (newEvents s0 last) = true →
    (passStates ds.length s0).length = ds.length ∧
    ((passStates ds.length s0).map State.rom).Perm (ds.map Device.id) ∧
    ((passStates ds.length s0).map State.rom).Pairwise wireLess ∧
    (∀ t ∈ passStates ds.length s0, t.rcode = .ok) ∧
    ∀ (k : Nat) (t : State), (passStates ds.length s0)[k]? = some t → t.ldf = decide (k + 1 = ds.length)

/-! ## Session -/

/-- R191: `SELECT sel`, for the buffer and for every legal entry; an illegal selector is rejected; and the words. The
match byte is presumed (log entry 6). -/
def Obligations.SelectEffect : Prop :=
  decode 0x0980 = .ok .selectRom ∧ (∀ n : BitVec 7, decode (0x0900#16 + n.setWidth 16) = .ok (.selectRec n)) ∧
  ∀ s : State,
    let after := fun id : Identifier => { s.bus (if s.level 0 then [.rst false] else selectedEvents id) with
      pres := !s.level 0, rcode := if s.level 0 then .busAbsent else .ok, inflight := none }
    exec .selectRom s = .next (after s.rom) ∧
    (∀ (idx : BitVec 7) (h : idx.toNat < Config.maxDev), idx.toNat < s.nrec.toNat →
      exec (.selectRec idx) s = .next (after (s.record[idx.toNat]'h))) ∧
    ∀ idx : BitVec 7, s.nrec.toNat ≤ idx.toNat → exec (.selectRec idx) s = .next { s with rcode := .illegal }

/-- `CFGDEV sel`, for the buffer and for every legal entry; an illegal selector is rejected (derived: of R213 the
bytes' order and that no reset slot follows are the spec's own, D21; byte values of log entries 6 and 7). -/
def Obligations.CfgdevEffect : Prop :=
  ∀ s : State,
    let after := fun id : Identifier => { s.bus (if s.level 0 then [.rst false] else configuredEvents id) with
      rcode := if s.level 0 then .busAbsent else .ok, inflight := none }
    exec .cfgdevRom s = .next (after s.rom) ∧
    (∀ (idx : BitVec 7) (h : idx.toNat < Config.maxDev), idx.toNat < s.nrec.toNat →
      exec (.cfgdevRec idx) s = .next (after (s.record[idx.toNat]'h))) ∧
    ∀ idx : BitVec 7, s.nrec.toNat ≤ idx.toNat → exec (.cfgdevRec idx) s = .next { s with rcode := .illegal }

/-- R105, R65 (derived): the 64 identifier bits of a selection are the wire bits 1 to 64 in order. -/
def Obligations.IdentifierTravelsInWireOrder : Prop :=
  ∀ id : Identifier, (identifierBits id).length = 64 ∧
    ∀ (c : Nat), 1 ≤ c → c ≤ 64 → (identifierBits id)[c - 1]? = some (wireBit id c)

/-- R200, R202 (derived): what one step of `CONVRD sel` does, by the first three answers that decide it: a failed
first selection; a first poll that reads 0, after which the command is in flight; a failed second selection; or the
whole session. That the command's step ends at its first poll is the model's (log entry 3). -/
def Obligations.ConvrdEffect : Prop :=
  ∀ s : State,
    let after := fun id : Identifier =>
      let start := selectedEvents id ++ wroteByte Config.cmdConvert
      if s.level 0 then { s.bus [.rst false] with rcode := .busAbsent, inflight := none }
      else if !s.level 1 then { s.bus (start ++ [.r false]) with inflight := some (.poll id) }
      else if s.level 2 then { s.bus (start ++ [.r true, .rst false]) with rcode := .busAbsent, inflight := none }
      else { s.bus (start ++ (.r true :: readSessionEvents id s 2)) with
        sp0 := byteAt s 3, sp1 := byteAt s 11, rcode := .ok, inflight := none }
    exec .convrdRom s = .next (after s.rom) ∧
    (∀ (idx : BitVec 7) (h : idx.toNat < Config.maxDev), idx.toNat < s.nrec.toNat →
      exec (.convrdRec idx) s = .next (after (s.record[idx.toNat]'h))) ∧
    ∀ idx : BitVec 7, s.nrec.toNat ≤ idx.toNat → exec (.convrdRec idx) s = .next { s with rcode := .illegal }

/-- R201, R202, R203 (derived): one further poll of a `CONVRD` in flight. -/
def Obligations.PollEffect : Prop :=
  ∀ (s : State) (id : Identifier), s.host = [] → s.inflight = some (.poll id) →
    step s = .next (
      if !s.level 0 then s.bus [.r false]
      else if s.level 1 then { s.bus [.r true, .rst false] with rcode := .busAbsent, inflight := none }
      else { s.bus (.r true :: readSessionEvents id s 1) with
        sp0 := byteAt s 2, sp1 := byteAt s 10, rcode := .ok, inflight := none })

/-- R200, R281 (derived): a session whose device answers `k` polls with 0 and then 1 completes after `k` further steps
with 180 + `k` slots; the buffer pair holds the two bytes read, and nothing else but `RCODE` was written. For the
identifier buffer and for every legal entry. That each further poll is one step is the model's (log entry 3). -/
def Obligations.SessionCompletes : Prop :=
  ∀ (s : State) (k : Nat), s.host = [] → s.level 0 = false → (∀ j, 1 ≤ j → j ≤ k → s.level j = false) →
    s.level (k + 1) = true → s.level (k + 2) = false →
    let events := fun id : Identifier => selectedEvents id ++ (wroteByte Config.cmdConvert ++
      (List.replicate k (Event.r false) ++ (Event.r true :: readSessionEvents id s (k + 2))))
    let after := fun id : Identifier => { s.bus (events id) with
      sp0 := byteAt s (k + 3), sp1 := byteAt s (k + 11), rcode := .ok, inflight := none }
    (∃ u, exec .convrdRom s = .next u ∧ Host.Core.run Sys2Proof.core k u = .next (after s.rom)) ∧
    (∀ (idx : BitVec 7) (h : idx.toNat < Config.maxDev), idx.toNat < s.nrec.toNat →
      ∃ u, exec (.convrdRec idx) s = .next u ∧
        Host.Core.run Sys2Proof.core k u = .next (after (s.record[idx.toNat]'h))) ∧
    ∀ id : Identifier, (events id).length = 180 + k

/-- R204 (derived; that each poll is one step is the model's, log entry 3): the hang. While every poll is answered 0
the command stays in flight, for any number of steps; the history grows by one `R(0)` a step and no result is written.
-/
def Obligations.PollHasNoTimeout : Prop :=
  ∀ (n : Nat) (s : State) (id : Identifier), s.host = [] → s.inflight = some (.poll id) → s.drv = false →
    StuckLow n s →
    Host.Core.run Sys2Proof.core n s = .next (s.bus (List.replicate n (.r false))) ∧
      (s.bus (List.replicate n (.r false))).busy = true

/-- R210: the temperature decode, and its word. -/
def Obligations.TdecEffect : Prop :=
  decode 0x0B00 = .ok .tdec ∧ ∀ s : State, ∃ v : Byte,
    v.toNat = ((s.sp1.toNat % 16) * 16 + s.sp0.toNat / 16 + (s.sp0.toNat / 8) % 2) % 256 ∧
    exec .tdec s = .next { s with temp := v, rcode := .ok, inflight := none }

/-- R211 (derived, as the spec's rule is; the wrap is its decision D20): with `x` the pair read as a 16-bit
two's-complement number, `TEMP` is `floor(x/16 + 1/2)` modulo 256, and as a signed number equal to it when it lies in
-128 .. 127. -/
def Obligations.TdecRoundsToNearest : Prop :=
  ∀ s : State, ∃ t, exec .tdec s = .next t ∧
    let q : Int := ((s.sp1 ++ s.sp0 : BitVec 16).toInt + 8) / 16
    t.temp = BitVec.ofInt 8 q ∧ (-128 ≤ q → q ≤ 127 → t.temp.toInt = q)

/-! ## Enumeration -/

/-- R215 to R219, R221 (derived): the first iteration of `ENUM`, told by the commands it is made of: the record and
the search state are cleared; then what `SRCHNXT` leaves, its code being `ENUM`'s when the pass failed; a device of
the family becomes entry 0 and is configured as `CFGDEV ROM` would, the result ignored; another is skipped. That the
command's step ends after an iteration is the model's (log entry 3). -/
def Obligations.EnumEffect : Prop :=
  ∀ s : State, ∃ u, exec .srchnxt { s with nrec := 0, lcp := 0, ldf := false, sst := .idle } = .next u ∧
    (u.rcode = .busAbsent ∨ u.rcode = .searchAnomaly → exec .enumerate s = .next u) ∧
    (u.rcode = .ok ∨ u.rcode = .crcMismatch → u.rom[7] ≠ Config.family →
      exec .enumerate s = .next (afterIteration s.rcode u)) ∧
    (u.rcode = .ok ∨ u.rcode = .crcMismatch → u.rom[7] = Config.family →
      ∃ v, exec .cfgdevRom u = .next v ∧ exec .enumerate s =
        .next (afterIteration s.rcode { v with nrec := 1, record := s.record.set 0 u.rom (by decide) })) ∧
    (u.rcode = .ok ∨ u.rcode = .crcMismatch ∨ u.rcode = .busAbsent ∨ u.rcode = .searchAnomaly)

/-- R215 to R219 (derived): each further iteration of an `ENUM` in flight, told the same way; the accepted device
becomes entry `NREC`. -/
def Obligations.EnumIteration : Prop :=
  ∀ (s : State) (h : s.nrec.toNat < Config.maxDev), s.host = [] → s.inflight = some .enumerate → s.ldf = false →
    ∃ u, exec .srchnxt s = .next u ∧
      (u.rcode = .busAbsent ∨ u.rcode = .searchAnomaly → step s = .next u) ∧
      (u.rcode = .ok ∨ u.rcode = .crcMismatch → u.rom[7] ≠ Config.family →
        step s = .next (afterIteration s.rcode u)) ∧
      (u.rcode = .ok ∨ u.rcode = .crcMismatch → u.rom[7] = Config.family →
        ∃ v, exec .cfgdevRom u = .next v ∧ step s =
          .next (afterIteration s.rcode { v with nrec := s.nrec + 1, record := s.record.set s.nrec.toNat u.rom h })) ∧
      (u.rcode = .ok ∨ u.rcode = .crcMismatch ∨ u.rcode = .busAbsent ∨ u.rcode = .searchAnomaly)

/-- R222 (derived, as the spec's rule is): under an arbitrary oracle `ENUM` need not end. There is ONE sequence of answers
under which it goes on for ever from every idle state, having recorded nothing: for every `n`, where the coming answers
are the sequence's as far as `n + 1` passes take them (129 each), it is still running after the accepting step and `n`
more. That each pass is one step is the model's (log entry 3). -/
def Obligations.EnumNeedNotEnd : Prop :=
  ∃ answers : Nat → Bool, ∀ (s : State) (n : Nat),
    s.host = [.write 0xFF (encode .enumerate)] → s.busy = false → (∀ k, k < 129 * (n + 1) → s.level k = answers k) →
    ∃ t, Host.Core.run Sys2Proof.core (n + 1) s = .next t ∧ t.busy = true ∧ t.nrec = 0

/-! ## The whole machine -/

/-- The invariant holds at reset. Its clause on the line and the model's own fields is met by the values log entries
1, 2, 4 and 16 name; no clause speaks of `IMASK`. -/
def Obligations.InvAtReset : Prop := Inv State.reset

/-- R31, R25, R34, R33, R29, R216 (derived): every step keeps the invariant of `Inv`: `LCP` is 0 to 64, `NREC` at most
`MAXDEV`, the line is released, `SST` is never `SEARCHING`, the search state is clear unless a device was found and
then the terminal flag says that `LCP` is 0, every selectable entry is of the family, and an enumeration in flight has
room. That the last clause holds, and the one on `SST` while `BUSY = 1` too, is by where the model ends a step of
`ENUM`: after a pass (log entry 3). -/
def Obligations.StepKeepsInv : Prop := ∀ s t : State, Inv s → step s = .next t → Inv t

/-- R77, R62 (derived): the history only grows, under every step, a reset's too. -/
def Obligations.HistoryOnlyGrows : Prop := ∀ s t : State, step s = .next t → s.history <+: t.history

/-- R74 (derived, as the spec's rule is): the controller's behaviour is a function of its state, the command and the
answers: two states that differ only in how the environment holds the same answers run every command alike, and the
same answers are left. -/
def Obligations.AnswersAloneDecide : Prop :=
  ∀ (i : Instr) (s : State) (samples : List Bool) (taken : Nat),
    (∀ k, s.level k = State.level { s with samples := samples, freeTaken := taken } k) →
    ∃ t t', exec i s = .next t ∧ exec i { s with samples := samples, freeTaken := taken } = .next t' ∧
      t' = { t with samples := t'.samples, freeTaken := t'.freeTaken } ∧ ∀ k, t.level k = t'.level k

/-- R26, R27 and the frames of R23 (derived): which commands write `PRES`, `BIT`, `RES`, `SP0`, `SP1`, `TEMP`. -/
def Obligations.ResultRegisterWriters : Prop :=
  ∀ (i : Instr) (s t : State), exec i s = .next t →
    (t.pres ≠ s.pres → i = .owrst ∨ i = .selectRom ∨ ∃ idx, i = .selectRec idx) ∧
    (t.bit ≠ s.bit → i = .owrb) ∧
    (t.res ≠ s.res → i = .owrby ∨ i = .crc8Rom ∨ ∃ idx, i = .crc8Rec idx) ∧
    (t.sp0 ≠ s.sp0 ∨ t.sp1 ≠ s.sp1 → (i = .convrdRom ∨ ∃ idx, i = .convrdRec idx) ∧ t.rcode = .ok) ∧
    (t.temp ≠ s.temp → i = .tdec)

/-- R22, R25, R28, R29, R31, R33 and R35 (derived): which commands write the search state, the buffer, `CRCV` and the
Sensor Record; no command leaves another `IMASK`. -/
def Obligations.SearchRegisterWriters : Prop :=
  ∀ (i : Instr) (s t : State), exec i s = .next t →
    (t.rom ≠ s.rom → i = .srchnxt ∨ i = .enumerate) ∧
    (t.lcp ≠ s.lcp ∨ t.ldf ≠ s.ldf ∨ t.sst ≠ s.sst → i = .srchrst ∨ i = .srchnxt ∨ i = .enumerate) ∧
    (t.crcv ≠ s.crcv → i = .srchnxt ∨ i = .enumerate ∨ i = .crc8Rom ∨ ∃ idx, i = .crc8Rec idx) ∧
    (t.nrec ≠ s.nrec ∨ t.record ≠ s.record → i = .enumerate) ∧
    t.imask = s.imask ∧ t.host = s.host ∧ t.hostReads = s.hostReads

/-- R33 (derived): between resets only an `ENUM`, just accepted or in flight, changes the Sensor Record, and it leaves
every entry at an index at or beyond the new `NREC` as it was. -/
def Obligations.OnlyEnumChangesTheRecord : Prop :=
  ∀ s t : State, step s = .next t → ¬ resetNext s →
    (t.nrec ≠ s.nrec ∨ t.record ≠ s.record →
      s.inflight = some .enumerate ∨ ∃ w rest, s.host = .write 0xFF w :: rest ∧ decode w = .ok .enumerate) ∧
    ∀ (n : Nat) (h : n < Config.maxDev), t.nrec.toNat ≤ n → t.record[n]'h = s.record[n]'h

/-- R232 (derived, as the spec's rule is): the result codes each command can end with; a command in flight has not
written one. -/
def Obligations.ResultCodesOfCommands : Prop :=
  ∀ (i : Instr) (s : State), ∃ t, exec i s = .next t ∧
    ((t.inflight.isSome = true ∧ mayHang i = true ∧ t.rcode = s.rcode) ∨ t.rcode ∈ resultCodes i)

/-- R281, R176 (derived): every command but `CONVRD` and `ENUM` ends, after at most 201 slots. -/
def Obligations.BoundedCommandsEnd : Prop :=
  ∀ (i : Instr) (s : State), mayHang i = false → s.busy = false →
    ∃ t, exec i s = .next t ∧ t.busy = false ∧ (newEvents s t).length ≤ 201

/-- R280 (derived; on the presumed sub-delays of log entry 9): slots and microseconds of a complete pass, a selection
and a configuration write. -/
def Obligations.SlotCountsAndBusTimes : Prop :=
  (∀ s : State, let es := Event.rst true :: (wroteByte Config.cmdSearch ++ (List.range' 1 64).flatMap (tripletAt s))
    es.length = 201 ∧ busTime es = 14960) ∧
  (∀ id : Identifier, (selectedEvents id).length = 73 ∧ busTime (selectedEvents id) = 6000) ∧
  ∀ id : Identifier, (configuredEvents id).length = 105 ∧ busTime (configuredEvents id) = 8240
end

