-- ==== Sys2Proof/Laws/State.lean ====
section
/-! SUPPORT. One lemma per field per named update of the state, true by unfolding it once. -/

namespace Sys2Proof.Machine.State

@[simp] theorem skip_rom (n : Nat) (s : State) : (s.skip n).rom = s.rom := rfl
@[simp] theorem skip_lcp (n : Nat) (s : State) : (s.skip n).lcp = s.lcp := rfl
@[simp] theorem skip_ldf (n : Nat) (s : State) : (s.skip n).ldf = s.ldf := rfl
@[simp] theorem skip_sst (n : Nat) (s : State) : (s.skip n).sst = s.sst := rfl
@[simp] theorem skip_record (n : Nat) (s : State) : (s.skip n).record = s.record := rfl
@[simp] theorem skip_nrec (n : Nat) (s : State) : (s.skip n).nrec = s.nrec := rfl
@[simp] theorem skip_sp0 (n : Nat) (s : State) : (s.skip n).sp0 = s.sp0 := rfl
@[simp] theorem skip_sp1 (n : Nat) (s : State) : (s.skip n).sp1 = s.sp1 := rfl
@[simp] theorem skip_res (n : Nat) (s : State) : (s.skip n).res = s.res := rfl
@[simp] theorem skip_temp (n : Nat) (s : State) : (s.skip n).temp = s.temp := rfl
@[simp] theorem skip_pres (n : Nat) (s : State) : (s.skip n).pres = s.pres := rfl
@[simp] theorem skip_bit (n : Nat) (s : State) : (s.skip n).bit = s.bit := rfl
@[simp] theorem skip_crcv (n : Nat) (s : State) : (s.skip n).crcv = s.crcv := rfl
@[simp] theorem skip_rcode (n : Nat) (s : State) : (s.skip n).rcode = s.rcode := rfl
@[simp] theorem skip_drv (n : Nat) (s : State) : (s.skip n).drv = s.drv := rfl
@[simp] theorem skip_imask (n : Nat) (s : State) : (s.skip n).imask = s.imask := rfl
@[simp] theorem skip_inflight (n : Nat) (s : State) : (s.skip n).inflight = s.inflight := rfl
@[simp] theorem skip_history (n : Nat) (s : State) : (s.skip n).history = s.history := rfl
@[simp] theorem skip_samples (n : Nat) (s : State) : (s.skip n).samples = s.samples.drop n := rfl
@[simp] theorem skip_freeTaken (n : Nat) (s : State) : (s.skip n).freeTaken = s.freeTaken + (n - s.samples.length) := rfl
@[simp] theorem skip_host (n : Nat) (s : State) : (s.skip n).host = s.host := rfl
@[simp] theorem skip_hostReads (n : Nat) (s : State) : (s.skip n).hostReads = s.hostReads := rfl

@[simp] theorem bus_rom (es : List Event) (s : State) : (s.bus es).rom = s.rom := rfl
@[simp] theorem bus_lcp (es : List Event) (s : State) : (s.bus es).lcp = s.lcp := rfl
@[simp] theorem bus_ldf (es : List Event) (s : State) : (s.bus es).ldf = s.ldf := rfl
@[simp] theorem bus_sst (es : List Event) (s : State) : (s.bus es).sst = s.sst := rfl
@[simp] theorem bus_record (es : List Event) (s : State) : (s.bus es).record = s.record := rfl
@[simp] theorem bus_nrec (es : List Event) (s : State) : (s.bus es).nrec = s.nrec := rfl
@[simp] theorem bus_sp0 (es : List Event) (s : State) : (s.bus es).sp0 = s.sp0 := rfl
@[simp] theorem bus_sp1 (es : List Event) (s : State) : (s.bus es).sp1 = s.sp1 := rfl
@[simp] theorem bus_res (es : List Event) (s : State) : (s.bus es).res = s.res := rfl
@[simp] theorem bus_temp (es : List Event) (s : State) : (s.bus es).temp = s.temp := rfl
@[simp] theorem bus_pres (es : List Event) (s : State) : (s.bus es).pres = s.pres := rfl
@[simp] theorem bus_bit (es : List Event) (s : State) : (s.bus es).bit = s.bit := rfl
@[simp] theorem bus_crcv (es : List Event) (s : State) : (s.bus es).crcv = s.crcv := rfl
@[simp] theorem bus_rcode (es : List Event) (s : State) : (s.bus es).rcode = s.rcode := rfl
@[simp] theorem bus_drv (es : List Event) (s : State) : (s.bus es).drv = false := rfl
@[simp] theorem bus_imask (es : List Event) (s : State) : (s.bus es).imask = s.imask := rfl
@[simp] theorem bus_inflight (es : List Event) (s : State) : (s.bus es).inflight = s.inflight := rfl
@[simp] theorem bus_history (es : List Event) (s : State) : (s.bus es).history = s.history ++ es := rfl
@[simp] theorem bus_samples (es : List Event) (s : State) : (s.bus es).samples = s.samples.drop (askCount es) := rfl
@[simp] theorem bus_freeTaken (es : List Event) (s : State) : (s.bus es).freeTaken = s.freeTaken + (askCount es - s.samples.length) := rfl
@[simp] theorem bus_host (es : List Event) (s : State) : (s.bus es).host = s.host := rfl
@[simp] theorem bus_hostReads (es : List Event) (s : State) : (s.bus es).hostReads = s.hostReads := rfl

@[simp] theorem finish_rom (c : ResultCode) (s : State) : (s.finish c).rom = s.rom := rfl
@[simp] theorem finish_lcp (c : ResultCode) (s : State) : (s.finish c).lcp = s.lcp := rfl
@[simp] theorem finish_ldf (c : ResultCode) (s : State) : (s.finish c).ldf = s.ldf := rfl
@[simp] theorem finish_sst (c : ResultCode) (s : State) : (s.finish c).sst = s.sst := rfl
@[simp] theorem finish_record (c : ResultCode) (s : State) : (s.finish c).record = s.record := rfl
@[simp] theorem finish_nrec (c : ResultCode) (s : State) : (s.finish c).nrec = s.nrec := rfl
@[simp] theorem finish_sp0 (c : ResultCode) (s : State) : (s.finish c).sp0 = s.sp0 := rfl
@[simp] theorem finish_sp1 (c : ResultCode) (s : State) : (s.finish c).sp1 = s.sp1 := rfl
@[simp] theorem finish_res (c : ResultCode) (s : State) : (s.finish c).res = s.res := rfl
@[simp] theorem finish_temp (c : ResultCode) (s : State) : (s.finish c).temp = s.temp := rfl
@[simp] theorem finish_pres (c : ResultCode) (s : State) : (s.finish c).pres = s.pres := rfl
@[simp] theorem finish_bit (c : ResultCode) (s : State) : (s.finish c).bit = s.bit := rfl
@[simp] theorem finish_crcv (c : ResultCode) (s : State) : (s.finish c).crcv = s.crcv := rfl
@[simp] theorem finish_rcode (c : ResultCode) (s : State) : (s.finish c).rcode = c := rfl
@[simp] theorem finish_drv (c : ResultCode) (s : State) : (s.finish c).drv = s.drv := rfl
@[simp] theorem finish_imask (c : ResultCode) (s : State) : (s.finish c).imask = s.imask := rfl
@[simp] theorem finish_inflight (c : ResultCode) (s : State) : (s.finish c).inflight = none := rfl
@[simp] theorem finish_history (c : ResultCode) (s : State) : (s.finish c).history = s.history := rfl
@[simp] theorem finish_samples (c : ResultCode) (s : State) : (s.finish c).samples = s.samples := rfl
@[simp] theorem finish_freeTaken (c : ResultCode) (s : State) : (s.finish c).freeTaken = s.freeTaken := rfl
@[simp] theorem finish_host (c : ResultCode) (s : State) : (s.finish c).host = s.host := rfl
@[simp] theorem finish_hostReads (c : ResultCode) (s : State) : (s.finish c).hostReads = s.hostReads := rfl

@[simp] theorem reject_rom (s : State) : (s.reject).rom = s.rom := rfl
@[simp] theorem reject_lcp (s : State) : (s.reject).lcp = s.lcp := rfl
@[simp] theorem reject_ldf (s : State) : (s.reject).ldf = s.ldf := rfl
@[simp] theorem reject_sst (s : State) : (s.reject).sst = s.sst := rfl
@[simp] theorem reject_record (s : State) : (s.reject).record = s.record := rfl
@[simp] theorem reject_nrec (s : State) : (s.reject).nrec = s.nrec := rfl
@[simp] theorem reject_sp0 (s : State) : (s.reject).sp0 = s.sp0 := rfl
@[simp] theorem reject_sp1 (s : State) : (s.reject).sp1 = s.sp1 := rfl
@[simp] theorem reject_res (s : State) : (s.reject).res = s.res := rfl
@[simp] theorem reject_temp (s : State) : (s.reject).temp = s.temp := rfl
@[simp] theorem reject_pres (s : State) : (s.reject).pres = s.pres := rfl
@[simp] theorem reject_bit (s : State) : (s.reject).bit = s.bit := rfl
@[simp] theorem reject_crcv (s : State) : (s.reject).crcv = s.crcv := rfl
@[simp] theorem reject_rcode (s : State) : (s.reject).rcode = .illegal := rfl
@[simp] theorem reject_drv (s : State) : (s.reject).drv = s.drv := rfl
@[simp] theorem reject_imask (s : State) : (s.reject).imask = s.imask := rfl
@[simp] theorem reject_inflight (s : State) : (s.reject).inflight = s.inflight := rfl
@[simp] theorem reject_history (s : State) : (s.reject).history = s.history := rfl
@[simp] theorem reject_samples (s : State) : (s.reject).samples = s.samples := rfl
@[simp] theorem reject_freeTaken (s : State) : (s.reject).freeTaken = s.freeTaken := rfl
@[simp] theorem reject_host (s : State) : (s.reject).host = s.host := rfl
@[simp] theorem reject_hostReads (s : State) : (s.reject).hostReads = s.hostReads := rfl

@[simp] theorem clearSearch_rom (s : State) : (s.clearSearch).rom = s.rom := rfl
@[simp] theorem clearSearch_lcp (s : State) : (s.clearSearch).lcp = 0 := rfl
@[simp] theorem clearSearch_ldf (s : State) : (s.clearSearch).ldf = false := rfl
@[simp] theorem clearSearch_sst (s : State) : (s.clearSearch).sst = .idle := rfl
@[simp] theorem clearSearch_record (s : State) : (s.clearSearch).record = s.record := rfl
@[simp] theorem clearSearch_nrec (s : State) : (s.clearSearch).nrec = s.nrec := rfl
@[simp] theorem clearSearch_sp0 (s : State) : (s.clearSearch).sp0 = s.sp0 := rfl
@[simp] theorem clearSearch_sp1 (s : State) : (s.clearSearch).sp1 = s.sp1 := rfl
@[simp] theorem clearSearch_res (s : State) : (s.clearSearch).res = s.res := rfl
@[simp] theorem clearSearch_temp (s : State) : (s.clearSearch).temp = s.temp := rfl
@[simp] theorem clearSearch_pres (s : State) : (s.clearSearch).pres = s.pres := rfl
@[simp] theorem clearSearch_bit (s : State) : (s.clearSearch).bit = s.bit := rfl
@[simp] theorem clearSearch_crcv (s : State) : (s.clearSearch).crcv = s.crcv := rfl
@[simp] theorem clearSearch_rcode (s : State) : (s.clearSearch).rcode = s.rcode := rfl
@[simp] theorem clearSearch_drv (s : State) : (s.clearSearch).drv = s.drv := rfl
@[simp] theorem clearSearch_imask (s : State) : (s.clearSearch).imask = s.imask := rfl
@[simp] theorem clearSearch_inflight (s : State) : (s.clearSearch).inflight = s.inflight := rfl
@[simp] theorem clearSearch_history (s : State) : (s.clearSearch).history = s.history := rfl
@[simp] theorem clearSearch_samples (s : State) : (s.clearSearch).samples = s.samples := rfl
@[simp] theorem clearSearch_freeTaken (s : State) : (s.clearSearch).freeTaken = s.freeTaken := rfl
@[simp] theorem clearSearch_host (s : State) : (s.clearSearch).host = s.host := rfl
@[simp] theorem clearSearch_hostReads (s : State) : (s.clearSearch).hostReads = s.hostReads := rfl

@[simp] theorem abortSearch_rom (why : SearchState) (s : State) : (s.abortSearch why).rom = s.rom := rfl
@[simp] theorem abortSearch_lcp (why : SearchState) (s : State) : (s.abortSearch why).lcp = 0 := rfl
@[simp] theorem abortSearch_ldf (why : SearchState) (s : State) : (s.abortSearch why).ldf = false := rfl
@[simp] theorem abortSearch_sst (why : SearchState) (s : State) : (s.abortSearch why).sst = why := rfl
@[simp] theorem abortSearch_record (why : SearchState) (s : State) : (s.abortSearch why).record = s.record := rfl
@[simp] theorem abortSearch_nrec (why : SearchState) (s : State) : (s.abortSearch why).nrec = s.nrec := rfl
@[simp] theorem abortSearch_sp0 (why : SearchState) (s : State) : (s.abortSearch why).sp0 = s.sp0 := rfl
@[simp] theorem abortSearch_sp1 (why : SearchState) (s : State) : (s.abortSearch why).sp1 = s.sp1 := rfl
@[simp] theorem abortSearch_res (why : SearchState) (s : State) : (s.abortSearch why).res = s.res := rfl
@[simp] theorem abortSearch_temp (why : SearchState) (s : State) : (s.abortSearch why).temp = s.temp := rfl
@[simp] theorem abortSearch_pres (why : SearchState) (s : State) : (s.abortSearch why).pres = s.pres := rfl
@[simp] theorem abortSearch_bit (why : SearchState) (s : State) : (s.abortSearch why).bit = s.bit := rfl
@[simp] theorem abortSearch_crcv (why : SearchState) (s : State) : (s.abortSearch why).crcv = s.crcv := rfl
@[simp] theorem abortSearch_rcode (why : SearchState) (s : State) : (s.abortSearch why).rcode = s.rcode := rfl
@[simp] theorem abortSearch_drv (why : SearchState) (s : State) : (s.abortSearch why).drv = s.drv := rfl
@[simp] theorem abortSearch_imask (why : SearchState) (s : State) : (s.abortSearch why).imask = s.imask := rfl
@[simp] theorem abortSearch_inflight (why : SearchState) (s : State) : (s.abortSearch why).inflight = s.inflight := rfl
@[simp] theorem abortSearch_history (why : SearchState) (s : State) : (s.abortSearch why).history = s.history := rfl
@[simp] theorem abortSearch_samples (why : SearchState) (s : State) : (s.abortSearch why).samples = s.samples := rfl
@[simp] theorem abortSearch_freeTaken (why : SearchState) (s : State) : (s.abortSearch why).freeTaken = s.freeTaken := rfl
@[simp] theorem abortSearch_host (why : SearchState) (s : State) : (s.abortSearch why).host = s.host := rfl
@[simp] theorem abortSearch_hostReads (why : SearchState) (s : State) : (s.abortSearch why).hostReads = s.hostReads := rfl

@[simp] theorem hwReset_rom (s : State) : s.hwReset.rom = State.reset.rom := rfl
@[simp] theorem hwReset_lcp (s : State) : s.hwReset.lcp = State.reset.lcp := rfl
@[simp] theorem hwReset_ldf (s : State) : s.hwReset.ldf = State.reset.ldf := rfl
@[simp] theorem hwReset_sst (s : State) : s.hwReset.sst = State.reset.sst := rfl
@[simp] theorem hwReset_record (s : State) : s.hwReset.record = State.reset.record := rfl
@[simp] theorem hwReset_nrec (s : State) : s.hwReset.nrec = State.reset.nrec := rfl
@[simp] theorem hwReset_sp0 (s : State) : s.hwReset.sp0 = State.reset.sp0 := rfl
@[simp] theorem hwReset_sp1 (s : State) : s.hwReset.sp1 = State.reset.sp1 := rfl
@[simp] theorem hwReset_res (s : State) : s.hwReset.res = State.reset.res := rfl
@[simp] theorem hwReset_temp (s : State) : s.hwReset.temp = State.reset.temp := rfl
@[simp] theorem hwReset_pres (s : State) : s.hwReset.pres = State.reset.pres := rfl
@[simp] theorem hwReset_bit (s : State) : s.hwReset.bit = State.reset.bit := rfl
@[simp] theorem hwReset_crcv (s : State) : s.hwReset.crcv = State.reset.crcv := rfl
@[simp] theorem hwReset_rcode (s : State) : s.hwReset.rcode = State.reset.rcode := rfl
@[simp] theorem hwReset_drv (s : State) : s.hwReset.drv = State.reset.drv := rfl
@[simp] theorem hwReset_imask (s : State) : s.hwReset.imask = s.imask := rfl
@[simp] theorem hwReset_inflight (s : State) : s.hwReset.inflight = State.reset.inflight := rfl
@[simp] theorem hwReset_history (s : State) : s.hwReset.history = s.history := rfl
@[simp] theorem hwReset_samples (s : State) : s.hwReset.samples = s.samples := rfl
@[simp] theorem hwReset_freeTaken (s : State) : s.hwReset.freeTaken = s.freeTaken := rfl
@[simp] theorem hwReset_host (s : State) : s.hwReset.host = s.host := rfl
@[simp] theorem hwReset_hostReads (s : State) : s.hwReset.hostReads = s.hostReads := rfl

@[simp] theorem done_eq (s : State) : s.done = s.finish .ok := rfl
@[simp] theorem fail_eq (c : ResultCode) (s : State) : s.fail c = s.finish c := rfl

/-- A host write changes nothing but `ROM` (R40). -/
theorem writeReg_eq (n v : Byte) (s : State) : s.writeReg n v = { s with rom := (s.writeReg n v).rom } := by
  unfold State.writeReg
  split <;> rfl

end Sys2Proof.Machine.State
end

