-- ==== Sys2Proof/Laws/Bus.lean ====
section
/-! SUPPORT. What each slot and each byte operation does, once: the normal form `s.bus es`, in which everything a run
of slots leaves behind is its list of events. Later proofs cite these and unfold no slot again. -/

namespace Sys2Proof.Machine

/-! The environment's answers. -/

theorem takeLevel_fst (s : State) : s.takeLevel.1 = s.level 0 := by
  unfold State.takeLevel State.level
  cases h : s.samples <;> simp

theorem takeLevel_snd (s : State) : s.takeLevel.2 = s.skip 1 := by
  unfold State.takeLevel State.skip
  cases h : s.samples <;> simp

@[simp] theorem State.skip_zero (s : State) : s.skip 0 = s := by simp [State.skip]

theorem State.skip_skip (m n : Nat) (s : State) : (s.skip m).skip n = s.skip (m + n) := by
  simp only [State.skip, List.drop_drop, List.length_drop]
  congr 1
  omega

theorem State.level_skip (n k : Nat) (s : State) : (s.skip n).level k = s.level (n + k) := by
  unfold State.level
  simp only [State.skip_samples, State.skip_freeTaken, List.getElem?_drop, List.length_drop]
  cases h : s.samples[n + k]? with
  | some l => rfl
  | none =>
    have : s.samples.length ≤ n + k := by simpa using h
    simp only
    congr 1
    omega

/-- The queued answers come first. -/
theorem State.level_of_samples {s : State} {k : Nat} (h : k < s.samples.length) : s.level k = s.samples[k] := by
  simp [State.level, h]

/-- The level depends on the environment's two fields only. -/
theorem State.level_congr {s t : State} (hs : s.samples = t.samples) (hf : s.freeTaken = t.freeTaken) (k : Nat) :
    s.level k = t.level k := by
  simp [State.level, hs, hf]

/-! Counting answers. -/

@[simp] theorem askCount_nil : askCount [] = 0 := rfl
@[simp] theorem askCount_cons (e : Event) (es : List Event) : askCount (e :: es) = e.asks + askCount es := rfl
@[simp] theorem askCount_append (es fs : List Event) : askCount (es ++ fs) = askCount es + askCount fs := by
  simp [askCount]
@[simp] theorem asks_rst (p : Bool) : (Event.rst p).asks = 1 := rfl
@[simp] theorem asks_r (b : Bool) : (Event.r b).asks = 1 := rfl
@[simp] theorem asks_w (b : Bool) : (Event.w b).asks = 0 := rfl
@[simp] theorem askCount_writes (bs : List Bool) : askCount (bs.map .w) = 0 := by
  induction bs with
  | nil => rfl
  | cons b bs ih => simp [ih]

/-! The normal form. -/

theorem State.bus_bus (es fs : List Event) (s : State) : (s.bus es).bus fs = s.bus (es ++ fs) := by
  simp only [State.bus, askCount_append, ← State.skip_skip]
  simp [State.skip]

theorem State.level_bus (es : List Event) (k : Nat) (s : State) : (s.bus es).level k = s.level (askCount es + k) := by
  rw [← State.level_skip]
  exact State.level_congr rfl rfl k

/-- The reset slot (R121): one event, one answer, presence is a low sample; `IMASK` is restored, the line released. -/
theorem busReset_eq (s : State) : busReset s = (!s.level 0, s.bus [.rst (!s.level 0)]) := by
  simp only [busReset, runActions, resetSlot, List.foldl, LineAction.run, lineLevel, State.log, State.bus, takeLevel_fst,
    takeLevel_snd, askCount_cons, asks_rst, askCount_nil, Nat.add_zero]
  rfl

/-- The read slot (R124). -/
theorem busRead_eq (s : State) : busRead s = (s.level 0, s.bus [.r (s.level 0)]) := by
  simp only [busRead, runActions, readSlot, List.foldl, LineAction.run, lineLevel, State.log, State.bus, takeLevel_fst,
    takeLevel_snd, askCount_cons, asks_r, askCount_nil, Nat.add_zero]
  rfl

/-- The write slot (R127): one event and no answer. -/
theorem busWrite_eq (b : Bool) (s : State) : busWrite b s = s.bus [.w b] := by
  cases b <;> simp [busWrite, runActions, writeSlot, LineAction.run, State.log, State.bus, State.skip]

theorem writeBits_bus (bs : List Bool) (es : List Event) (s : State) :
    writeBits bs (s.bus es) = s.bus (es ++ bs.map .w) := by
  induction bs generalizing es with
  | nil => simp [writeBits]
  | cons b bs ih =>
    have : writeBits (b :: bs) (s.bus es) = writeBits bs (busWrite b (s.bus es)) := rfl
    rw [this, busWrite_eq, State.bus_bus, ih]
    simp

/-- A byte written is its 8 write slots, bit 0 first (R141). -/
theorem writeByte_eq (v : Byte) (s : State) : writeByte v s = s.bus ((byteBits v).map .w) := by
  have h : byteBits v = v.getLsbD 0 :: (byteBits v).tail := rfl
  have : writeByte v s = writeBits (byteBits v).tail (busWrite (v.getLsbD 0) s) := rfl
  rw [this, busWrite_eq, writeBits_bus, h]
  rfl

theorem setBit_all : ∀ b0 b1 b2 b3 b4 b5 b6 b7 : Bool,
    setBit (setBit (setBit (setBit (setBit (setBit (setBit (setBit 0x00#8 0 b0) 1 b1) 2 b2) 3 b3) 4 b4) 5 b5) 6 b6) 7 b7 =
      byteOfBits [b0, b1, b2, b3, b4, b5, b6, b7] := by decide

/-- A byte read is its 8 read slots, the first sample becoming bit 0 (R143). -/
theorem readByte_eq (s : State) :
    readByte s = (byteOfBits (s.levels 0 8), s.bus ((s.levels 0 8).map .r)) := by
  have hl : s.levels 0 8 = [s.level 0, s.level 1, s.level 2, s.level 3, s.level 4, s.level 5, s.level 6, s.level 7] := rfl
  have hr : List.range 8 = [0, 1, 2, 3, 4, 5, 6, 7] := rfl
  rw [hl, ← setBit_all]
  simp [readByte, hr, readBitsInto, busRead_eq, State.bus_bus, State.level_bus]

theorem writeBytes_bus (vs : List Byte) (es : List Event) (s : State) :
    writeBytes vs (s.bus es) = s.bus (es ++ (vs.flatMap byteBits).map .w) := by
  induction vs generalizing es with
  | nil => simp [writeBytes]
  | cons v vs ih =>
    have : writeBytes (v :: vs) (s.bus es) = writeBytes vs (writeByte v (s.bus es)) := rfl
    rw [this, writeByte_eq, State.bus_bus, ih]
    simp

end Sys2Proof.Machine
end

