-- ==== Sys2Proof/Laws/Bytes.lean ====
section
/-! SUPPORT. Bits of bytes and of identifiers: reading back what was written, at the same place and at any other. -/

namespace Sys2Proof.Machine

theorem getLsbD_setBit (v : Byte) (i j : Nat) (b : Bool) (hi : i < 8) :
    (setBit v i b).getLsbD j = if j = i then b else v.getLsbD j := by
  unfold setBit
  cases b <;> simp only [Bool.false_eq_true, if_false, if_true, BitVec.getLsbD_or, BitVec.getLsbD_and,
    BitVec.getLsbD_not, BitVec.getLsbD_shiftLeft, BitVec.getLsbD_one]
  all_goals
    by_cases hj : j = i
    · subst hj; simp [hi]
    · by_cases h8 : j < 8
      · have : ¬ (¬ j < i ∧ j - i = 0) := by omega
        simp_all
        try omega
      · have := BitVec.getLsbD_of_ge v j (by omega)
        simp_all

theorem wireBit_setWireBit_same (id : Identifier) (c : Nat) (d : Bool) : wireBit (setWireBit id c d) c = d := by
  have : wireBitIndex c < 8 := Nat.mod_lt _ (by decide)
  simp [wireBit, setWireBit, getLsbD_setBit _ _ _ _ this]

/-- Two wire bits of 1..64 are different bits of the buffer (R171). -/
theorem wireBit_setWireBit_ne (id : Identifier) {c c' : Nat} (d : Bool) (hc : 1 ≤ c) (hc' : 1 ≤ c') (h : c ≤ 64)
    (h' : c' ≤ 64) (hne : c' ≠ c) : wireBit (setWireBit id c d) c' = wireBit id c' := by
  have hb : wireBitIndex c < 8 := Nat.mod_lt _ (by decide)
  unfold wireBit setWireBit
  by_cases hi : wireByteIndex c' = wireByteIndex c
  · have hv : (c' - 1) / 8 = (c - 1) / 8 := by
      have := congrArg Fin.val hi
      simp only [wireByteIndex] at this
      omega
    have hj : wireBitIndex c' ≠ wireBitIndex c := by
      simp only [wireBitIndex]
      omega
    simp only [hi]
    simp [getLsbD_setBit _ _ _ _ hb, hj]
  · have : (wireByteIndex c).val ≠ (wireByteIndex c').val := fun e => hi (Fin.ext e.symm)
    simp [Vector.getElem_set_ne _ _ this]

/-- An identifier is its 64 wire bits (R6). -/
theorem identifier_ext_wireBit {x y : Identifier} (h : ∀ c, 1 ≤ c → c ≤ 64 → wireBit x c = wireBit y c) : x = y := by
  apply Vector.ext
  intro i hi
  apply BitVec.eq_of_getLsbD_eq
  intro j hj
  have := h (8 * (7 - i) + j + 1) (by omega) (by omega)
  have e1 : 7 - (8 * (7 - i) + j) / 8 = i := by omega
  have e2 : (8 * (7 - i) + j) % 8 = j := by omega
  simpa [wireBit, wireByteIndex, wireBitIndex, e1, e2] using this

theorem byteOfBits_byteBits (v : Byte) : byteOfBits (byteBits v) = v := by
  revert v; decide

theorem byteBits_length (v : Byte) : (byteBits v).length = 8 := by simp [byteBits]

theorem identifierBits_length (id : Identifier) : (identifierBits id).length = 64 := by
  simp [identifierBits, wireBytes, byteBits_length]

end Sys2Proof.Machine
end

