-- ==== Sys2Proof/Laws/PerInstr.lean ====
section
/-! SUPPORT. Statements made per instruction. Family `TableRow`: the word of a command has the form of its row of the
opcode table (R112 of 30_encoding.md). -/

namespace Sys2Proof.Laws.TableRow

/-- The encoded word matches the row's pattern under its mask (R112). -/
def Statement (i : Instr) : Prop := i.row.covers (encode i) = true

theorem owrst : Statement .owrst := by unfold Statement; decide
theorem owrb : Statement .owrb := by unfold Statement; decide
theorem owwb (b : Bool) : Statement (.owwb b) := by unfold Statement; revert b; decide
theorem owrby : Statement .owrby := by unfold Statement; decide
theorem owwby (imm8 : Byte) : Statement (.owwby imm8) := by unfold Statement; revert imm8; decide +kernel
theorem crc8Rom : Statement .crc8Rom := by unfold Statement; decide
theorem crc8Rec (idx : BitVec 7) : Statement (.crc8Rec idx) := by unfold Statement; revert idx; decide +kernel
theorem srchrst : Statement .srchrst := by unfold Statement; decide
theorem srchnxt : Statement .srchnxt := by unfold Statement; decide
theorem selectRom : Statement .selectRom := by unfold Statement; decide
theorem selectRec (idx : BitVec 7) : Statement (.selectRec idx) := by unfold Statement; revert idx; decide +kernel
theorem convrdRom : Statement .convrdRom := by unfold Statement; decide
theorem convrdRec (idx : BitVec 7) : Statement (.convrdRec idx) := by unfold Statement; revert idx; decide +kernel
theorem tdec : Statement .tdec := by unfold Statement; decide
theorem cfgdevRom : Statement .cfgdevRom := by unfold Statement; decide
theorem cfgdevRec (idx : BitVec 7) : Statement (.cfgdevRec idx) := by unfold Statement; revert idx; decide +kernel
theorem enumerate : Statement .enumerate := by unfold Statement; decide

end Sys2Proof.Laws.TableRow
end

