-- ==== Sys2Proof/Laws/Search.lean ====
section
/-! SUPPORT. What a search pass does, once: its events, its identifier buffer and its `lastZero` as folds over the
positions 1..n, and the three ways a pass ends (R162 to R169). -/

namespace Sys2Proof.Machine

/-- The events of a pass up to and with position `n` (R162). -/
def passEvents (s : State) (n : Nat) : List Event :=
  .rst true :: (wroteByte Config.cmdSearch ++ (List.range' 1 n).flatMap (tripletAt s))

/-- The identifier buffer after position `n` (R166). -/
def passRom (s : State) (n : Nat) : Identifier :=
  (List.range' 1 n).foldl (fun id c => setWireBit id c (directionAt s c)) s.rom

/-- `lastZero` after position `n`: the last conflict resolved to 0 (R165, C5, C8). -/
def passLast (s : State) (n : Nat) : Nat :=
  (List.range' 1 n).foldl (fun lz c => if conflictAt s c && !directionAt s c then c else lz) 0

theorem range'_one_succ (n : Nat) : List.range' 1 (n + 1) = List.range' 1 n ++ [n + 1] := by
  rw [List.range'_concat]
  simp [Nat.add_comm]

theorem passEvents_succ (s : State) (n : Nat) : passEvents s (n + 1) = passEvents s n ++ tripletAt s (n + 1) := by
  simp [passEvents, range'_one_succ]

theorem passRom_succ (s : State) (n : Nat) :
    passRom s (n + 1) = setWireBit (passRom s n) (n + 1) (directionAt s (n + 1)) := by
  simp [passRom, range'_one_succ]

theorem passLast_succ (s : State) (n : Nat) :
    passLast s (n + 1) = if conflictAt s (n + 1) && !directionAt s (n + 1) then n + 1 else passLast s n := by
  simp [passLast, range'_one_succ]

theorem askCount_passEvents (s : State) (n : Nat) : askCount (passEvents s n) = 2 * n + 1 := by
  induction n with
  | zero => simp [passEvents, wroteByte]
  | succ n ih => rw [passEvents_succ, askCount_append, ih]; simp [tripletAt]; omega

/-- The buffer after position `n` holds the directions of 1..n and the old bits beyond (R166). -/
theorem wireBit_passRom (s : State) {n : Nat} (hn : n ≤ 64) {c : Nat} (h1 : 1 ≤ c) (h64 : c ≤ 64) :
    wireBit (passRom s n) c = if c ≤ n then directionAt s c else wireBit s.rom c := by
  induction n with
  | zero => simp [passRom]; omega
  | succ n ih =>
    rw [passRom_succ]
    by_cases hc : c = n + 1
    · subst hc; simp [wireBit_setWireBit_same]
    · rw [wireBit_setWireBit_ne _ _ (by omega) h1 hn h64 hc, ih (by omega)]
      split <;> split <;> first | rfl | omega

theorem passLast_le (s : State) (n : Nat) : passLast s n ≤ n := by
  induction n with
  | zero => simp [passLast]
  | succ n ih => rw [passLast_succ]; split <;> omega

/-- The state of a pass after position `n`. -/
def passState (s : State) (n : Nat) : State := State.bus (passEvents s n) { s with rom := passRom s n }

theorem level_passState (s : State) (n k : Nat) : (passState s n).level k = s.level (2 * n + 1 + k) := by
  rw [passState, State.level_bus, askCount_passEvents]
  rfl

/-- One step of a pass (R164 to R166). -/
theorem searchBit_passState (s : State) {n : Nat} (hn : n < 64) :
    searchBit s.lcp.toNat (n + 1) (passLast s n) (passState s n) =
      if silentAt s (n + 1) then (none, (passState s n).bus [.r true, .r true])
      else (some (passLast s (n + 1)), passState s (n + 1)) := by
  have ha : (passState s n).level 0 = pairA s (n + 1) := by
    rw [level_passState, pairA]; congr 1
  have hb : ((passState s n).bus [.r (pairA s (n + 1))]).level 0 = pairB s (n + 1) := by
    rw [State.level_bus, level_passState, pairB]
    simp only [askCount_cons, asks_r, askCount_nil]
    congr 1
  have hold : wireBit (passRom s n) (n + 1) = wireBit s.rom (n + 1) := by
    rw [wireBit_passRom s (by omega) (by omega) (by omega), if_neg (by omega)]
  have hrom : ∀ es, ((passState s n).bus es).rom = passRom s n := fun _ => rfl
  have hnext : ∀ d, directionAt s (n + 1) = d →
      busWrite d { (passState s n).bus [.r (pairA s (n + 1)), .r (pairB s (n + 1))] with
        rom := setWireBit (passRom s n) (n + 1) d } = passState s (n + 1) := by
    intro d hd
    subst hd
    have : { (passState s n).bus [.r (pairA s (n + 1)), .r (pairB s (n + 1))] with
        rom := setWireBit (passRom s n) (n + 1) (directionAt s (n + 1)) } =
      State.bus [.r (pairA s (n + 1)), .r (pairB s (n + 1))]
        (State.bus (passEvents s n) { s with rom := setWireBit (passRom s n) (n + 1) (directionAt s (n + 1)) }) := rfl
    rw [this, busWrite_eq, State.bus_bus, State.bus_bus, passState, passEvents_succ, passRom_succ]
    simp [tripletAt]
  simp only [searchBit, busRead_eq, ha, hb, State.bus_bus, List.singleton_append, hrom, hold]
  have hd : directionAt s (n + 1) = directionAt s (n + 1) := rfl
  rw [passLast_succ]
  cases hA : pairA s (n + 1) <;> cases hB : pairB s (n + 1) <;>
    simp only [hA, hB] at hnext ⊢ <;>
    simp only [searchBranch, silentAt, conflictAt, hA, hB] <;>
    simp only [directionAt, conflictAt, hA, hB] at hnext ⊢
  · by_cases h1 : n + 1 = s.lcp.toNat
    · simp [h1] at hnext ⊢; exact hnext
    · by_cases h2 : s.lcp.toNat < n + 1
      · simp [h1, h2] at hnext ⊢; simpa using hnext
      · cases hw : wireBit s.rom (n + 1) <;> simp [h1, h2, hw] at hnext ⊢ <;> simpa using hnext
  · simpa using hnext
  · simpa using hnext
  · rfl

/-- The loop over all positions from `n + 1` on. -/
theorem searchBits_passState (s : State) (m n : Nat) (h : n + m = 64) :
    (∀ c, n < c → c ≤ 64 → silentAt s c = false) →
      searchBits s.lcp.toNat (List.range' (n + 1) m) (passLast s n) (passState s n) =
        (some (passLast s 64), passState s 64) := by
  intro hs
  induction m generalizing n with
  | zero => have : n = 64 := by omega
            subst this; simp [searchBits]
  | succ m ih =>
    rw [List.range'_succ, searchBits, searchBit_passState s (by omega), hs (n + 1) (by omega) (by omega)]
    exact ih (n + 1) (by omega) fun c h1 h2 => hs c (by omega) h2

/-- The loop when the first `(1,1)` pair is at `k + 1` (R164). -/
theorem searchBits_silent (s : State) (m n k : Nat) (h : n + m = 64) (hk : n ≤ k) (hk64 : k < 64)
    (hs : ∀ c, n < c → c ≤ k → silentAt s c = false) (hsil : silentAt s (k + 1) = true) :
    searchBits s.lcp.toNat (List.range' (n + 1) m) (passLast s n) (passState s n) =
      (none, (passState s k).bus [.r true, .r true]) := by
  induction m generalizing n with
  | zero => omega
  | succ m ih =>
    rw [List.range'_succ, searchBits, searchBit_passState s (by omega)]
    by_cases he : n = k
    · subst he; simp [hsil]
    · rw [hs (n + 1) (by omega) (by omega)]
      exact ih (n + 1) (by omega) (by omega) fun c h1 h2 => hs c (by omega) h2

/-- The start of a pass that saw presence. -/
theorem pass_start (s : State) (hp : s.level 0 = false) :
    writeByte Config.cmdSearch (busReset s).2 = passState s 0 := by
  rw [busReset_eq, writeByte_eq, State.bus_bus, hp]
  rfl

/-- The three ways a pass ends (R162, R167 to R169). -/
theorem searchPass_absent (s : State) (hp : s.level 0 = true) :
    searchPass s = (.busAbsent, (s.bus [.rst false]).abortSearch .busError) := by
  have hl : State.level { s with sst := .searching } 0 = true := hp
  simp only [searchPass, busReset_eq, hl]
  rfl

theorem searchPass_complete (s : State) (hp : s.level 0 = false)
    (hs : ∀ c, 1 ≤ c → c ≤ 64 → silentAt s c = false) :
    searchPass s = (crcCode (passRom s 64), completePass (passLast s 64) (passState s 64)) := by
  have h0 : (busReset { s with sst := .searching }).1 = true := by
    rw [busReset_eq]; simp [show State.level { s with sst := .searching } 0 = false from hp]
  have h1 := pass_start { s with sst := .searching } hp
  have h2 := searchBits_passState { s with sst := .searching } 64 0 rfl fun c hc hc' => hs c hc hc'
  simp only [searchPass, h0, h1, if_true]
  have h3 : searchBits s.lcp.toNat wirePositions 0 (passState { s with sst := .searching } 0) =
      (some (passLast s 64), passState { s with sst := .searching } 64) := h2
  rw [h3]
  rfl

theorem searchPass_silent (s : State) (hp : s.level 0 = false) {k : Nat} (hk : k < 64)
    (hs : ∀ c, 1 ≤ c → c ≤ k → silentAt s c = false) (hsil : silentAt s (k + 1) = true) :
    searchPass s = (.searchAnomaly, ((passState s k).bus [.r true, .r true]).abortSearch .noDevice) := by
  have h0 : (busReset { s with sst := .searching }).1 = true := by
    rw [busReset_eq]; simp [show State.level { s with sst := .searching } 0 = false from hp]
  have h1 := pass_start { s with sst := .searching } hp
  have h2 := searchBits_silent { s with sst := .searching } 64 0 k rfl (by omega) hk (fun c hc hc' => hs c hc hc') hsil
  simp only [searchPass, h0, h1, if_true]
  have h3 : searchBits s.lcp.toNat wirePositions 0 (passState { s with sst := .searching } 0) =
      (none, (passState { s with sst := .searching } k).bus [.r true, .r true]) := h2
  rw [h3]
  rfl

/-- Every pass ends in one of the three ways. -/
theorem searchPass_cases (s : State) :
    (s.level 0 = true ∧ searchPass s = (.busAbsent, (s.bus [.rst false]).abortSearch .busError)) ∨
    (s.level 0 = false ∧ (∀ c, 1 ≤ c → c ≤ 64 → silentAt s c = false) ∧
      searchPass s = (crcCode (passRom s 64), completePass (passLast s 64) (passState s 64))) ∨
    (∃ k < 64, s.level 0 = false ∧ (∀ c, 1 ≤ c → c ≤ k → silentAt s c = false) ∧ silentAt s (k + 1) = true ∧
      searchPass s = (.searchAnomaly, ((passState s k).bus [.r true, .r true]).abortSearch .noDevice)) := by
  cases hp : s.level 0 with
  | true => exact .inl ⟨rfl, searchPass_absent s hp⟩
  | false =>
    by_cases hs : ∀ c, 1 ≤ c → c ≤ 64 → silentAt s c = false
    · exact .inr (.inl ⟨rfl, hs, searchPass_complete s hp hs⟩)
    · have hex : ∃ k, k < 64 ∧ silentAt s (k + 1) = true := by
        simp only [not_forall, Bool.not_eq_false] at hs
        obtain ⟨c, h1, h2, h3⟩ := hs
        exact ⟨c - 1, by omega, by rwa [Nat.sub_add_cancel h1]⟩
      classical
      have hk := Nat.find_spec hex
      have hmin : ∀ c, 1 ≤ c → c ≤ Nat.find hex → silentAt s c = false := by
        intro c h1 h2
        have := Nat.find_min hex (m := c - 1) (by omega)
        rw [Nat.sub_add_cancel h1] at this
        have hc : c - 1 < 64 := by omega
        simpa [hc] using this
      exact .inr (.inr ⟨Nat.find hex, hk.1, rfl, hmin, hk.2, searchPass_silent s hp hk.1 hmin hk.2⟩)

end Sys2Proof.Machine
end

