-- ==== Sys2Proof/Laws/Session.lean ====
section
/-! SUPPORT. What the shared operations of the device session do, once (R190, R200 to R203, R213, R215). -/

namespace Sys2Proof.Machine

theorem selectedEvents_asks (id : Identifier) : askCount (selectedEvents id) = 1 := by
  simp [selectedEvents, wroteByte, wroteIdentifier]

/-- `Select(ID)` (R190). -/
theorem selectDevice_eq (id : Identifier) (s : State) :
    selectDevice id s = if s.level 0 then (false, s.bus [.rst false]) else (true, s.bus (selectedEvents id)) := by
  simp only [selectDevice, busReset_eq]
  cases s.level 0
  · simp [writeByte_eq, State.bus_bus, writeBytes_bus, selectedEvents, wroteByte, wroteIdentifier, identifierBits]
  · simp

/-- `Configure(ID)` (R213). -/
theorem configure_eq (id : Identifier) (s : State) :
    configure id s = if s.level 0 then (false, s.bus [.rst false]) else (true, s.bus (configuredEvents id)) := by
  simp only [configure, selectDevice_eq]
  cases s.level 0
  · simp [writeByte_eq, State.bus_bus, writeBytes_bus, configuredEvents, wroteByte, configBytes]
  · simp

theorem askCount_reads (bs : List Bool) : askCount (bs.map .r) = bs.length := by
  induction bs with
  | nil => rfl
  | cons b bs ih => simp [ih, Nat.add_comm]

theorem readAt_asks (s : State) (k : Nat) : askCount (readAt s k) = 8 := by
  rw [readAt, askCount_reads]; simp [State.levels]

theorem readByte_bus (es : List Event) (s : State) :
    readByte (s.bus es) = (byteAt s (askCount es), s.bus (es ++ readAt s (askCount es))) := by
  have : (s.bus es).levels 0 8 = s.levels (askCount es) 8 := by
    simp [State.levels, State.level_bus]
  rw [readByte_eq, this, State.bus_bus]
  rfl

/-- The part of `CONVRD` after its poll (R200, R202, R203). -/
theorem readSession_eq (id : Identifier) (s : State) :
    readSession id s =
      if s.level 0 then (s.bus [.rst false]).finish .busAbsent
      else State.finish .ok { s.bus (selectedEvents id ++ (wroteByte Config.cmdReadSp ++
        (readAt s 1 ++ (readAt s 9 ++ [.rst (!s.level 17)])))) with sp0 := byteAt s 1, sp1 := byteAt s 9 } := by
  simp only [readSession, selectDevice_eq]
  cases s.level 0
  · have h1 : writeByte Config.cmdReadSp (s.bus (selectedEvents id)) =
        s.bus (selectedEvents id ++ wroteByte Config.cmdReadSp) := by rw [writeByte_eq, State.bus_bus]; rfl
    have a1 : askCount (selectedEvents id ++ wroteByte Config.cmdReadSp) = 1 := by
      simp [selectedEvents_asks, wroteByte]
    have a2 : askCount (selectedEvents id ++ wroteByte Config.cmdReadSp ++ readAt s 1) = 9 := by
      rw [askCount_append, a1, readAt_asks]
    have a3 : askCount (selectedEvents id ++ wroteByte Config.cmdReadSp ++ readAt s 1 ++ readAt s 9) = 17 := by
      rw [askCount_append, a2, readAt_asks]
    simp only [Bool.false_eq_true, if_false, if_true, h1, readByte_bus, a1, a2, busReset_eq, State.level_bus, a3,
      State.bus_bus, State.done_eq]
    simp only [List.append_assoc]
  · simp

/-- One completion poll (R201, R204). -/
theorem pollStep_eq (id : Identifier) (s : State) :
    pollStep id s =
      if s.level 0 then readSession id (s.bus [.r true])
      else { s.bus [.r false] with inflight := some (.poll id) } := by
  simp only [pollStep, busRead_eq]
  cases s.level 0 <;> rfl

/-- A poll after a run of slots, with all three of its outcomes (R201 to R204). -/
theorem pollStep_bus (s : State) (es : List Event) (id : Identifier) {k : Nat} (he : askCount es = k) :
    pollStep id (s.bus es) =
      if !s.level k then { s.bus (es ++ [.r false]) with inflight := some (.poll id) }
      else if s.level (k + 1) then { s.bus (es ++ [.r true, .rst false]) with rcode := .busAbsent, inflight := none }
      else { s.bus (es ++ (.r true :: readSessionEvents id s (k + 1))) with
        sp0 := byteAt s (k + 2), sp1 := byteAt s (k + 10), rcode := .ok, inflight := none } := by
  rw [pollStep_eq, State.level_bus, he]
  subst he
  simp only [Nat.add_zero]
  cases s.level (askCount es)
  · simp [State.bus_bus]
  · simp only [State.bus_bus, readSession_eq, State.level_bus, askCount_append, askCount_cons, asks_r, askCount_nil]
    cases s.level (askCount es + 1)
    · have e : ∀ j, State.levels (s.bus (es ++ [.r true])) j 8 = s.levels (askCount es + 1 + j) 8 := by
        intro j; simp [State.levels, State.level_bus, Nat.add_assoc]
      simp [readSessionEvents, readAt, byteAt, e, State.finish, Nat.add_assoc]
    · simp [State.finish]

/-- `CONVRD` up to and with its first poll (R200, R202). -/
theorem convertCommand_eq (id : Identifier) (s : State) :
    convertCommand id s =
      if s.level 0 then (s.bus [.rst false]).finish .busAbsent
      else pollStep id (s.bus (selectedEvents id ++ wroteByte Config.cmdConvert)) := by
  simp only [convertCommand, selectDevice_eq]
  cases s.level 0
  · simp [writeByte_eq, State.bus_bus, wroteByte]
  · simp

/-- The selector picks the identifier of a legal entry (R96, R97). -/
theorem selected_entry {s : State} {idx : BitVec 7} (h : idx.toNat < s.nrec.toNat) (hm : idx.toNat < Config.maxDev) :
    s.selected (.entry idx) = some (s.record[idx.toNat]'hm) := by
  simp [State.selected, h, hm]

/-- An index at or beyond `NREC` is illegal (R97). -/
theorem selected_illegal {s : State} {idx : BitVec 7} (h : s.nrec.toNat ≤ idx.toNat) :
    s.selected (.entry idx) = none := by
  simp [State.selected]; omega

end Sys2Proof.Machine
end

