-- ==== Sys2Proof/Laws/Step.lean ====
section
/-! SUPPORT. What one step does, by the next move of the host or the environment (R42, R90, R246, R260): later proofs
rewrite with these and unfold `step` no more. -/

namespace Sys2Proof.Machine

theorem step_no_move {s : State} (h : s.host = []) : step s = .next (proceed s) := by
  simp [step, cycle, advance, h]

theorem step_quiet {s : State} {rest : List HostMove} (h : s.host = .quiet :: rest) :
    step s = .next (proceed { s with host := rest }) := by
  simp [step, cycle, advance, h]

theorem step_irqMask {s : State} {b : Bool} {rest : List HostMove} (h : s.host = .irqMask b :: rest) :
    step s = .next { s with host := rest, imask := b } := by
  simp [step, cycle, advance, h]

theorem step_reset {s : State} {rest : List HostMove} (h : s.host = .reset :: rest) :
    step s = .next (State.hwReset { s with host := rest }) := by
  simp [step, cycle, advance, h]

theorem step_read_idle {s : State} {n : Byte} {rest : List HostMove} (h : s.host = .read n :: rest)
    (hb : s.busy = false) : step s = .next (hostRead n { s with host := rest }) := by
  simp [step, cycle, advance, h, hb]

theorem step_write_idle {s : State} {n : Byte} {d : CmdWord} {rest : List HostMove} (h : s.host = .write n d :: rest)
    (hb : s.busy = false) : step s = hostWrite n d { s with host := rest } := by
  simp [step, cycle, advance, h, hb]

theorem step_busy_waits {s : State} (hb : s.busy = true)
    (h : (∃ n d rest, s.host = .write n d :: rest) ∨ ∃ n rest, s.host = .read n :: rest) :
    step s = .next (proceed s) := by
  obtain ⟨n, d, rest, h⟩ | ⟨n, rest, h⟩ := h <;> simp [step, cycle, advance, h, hb]

/-- One step peeled off a run. -/
theorem run_succ {n : Nat} {s t : State} (h : step s = .next t) :
    Host.Core.run Sys2Proof.core (n + 1) s = Host.Core.run Sys2Proof.core n t := by
  have : Sys2Proof.core.step s = .next t := h
  simp only [Host.Core.run]
  rw [this]

/-- Every command answers a next state (R230). -/
theorem exec_next (i : Sys2Proof.Instr) (s : State) : ∃ t, exec i s = .next t := by
  cases i <;> exact ⟨_, rfl⟩

end Sys2Proof.Machine
end

