-- ==== Sys2Proof/Machine/Listing.lean ====
section
/-! DEFINITION. The listing syntax and the pseudo-instructions (R110, R111 of 30_encoding.md). They are the host's: no
step of the machine uses them. -/

namespace Sys2Proof.Machine

/-- A hexadecimal digit, upper case. -/
def hexDigit (v : BitVec 4) : String :=
  match v.toNat with
  | 10 => "A" | 11 => "B" | 12 => "C" | 13 => "D" | 14 => "E" | 15 => "F"
  | n => toString n

/-- A byte literal `0x..` (R5). -/
def hexByte (v : Byte) : String := "0x" ++ hexDigit (v.extractLsb' 4 4) ++ hexDigit (v.extractLsb' 0 4)

/-- The record selector of a listing, `REC[n]` (R110). -/
def entryText (idx : BitVec 7) : String := "REC[" ++ toString idx.toNat ++ "]"

/-- A command as a listing writes it (R110). -/
def listing : Instr → String
  | .owrst => "OWRST"
  | .owrb => "OWRB"
  | .owwb b => "OWWB " ++ (if b then "1" else "0")
  | .owrby => "OWRBY"
  | .owwby imm8 => "OWWBY " ++ hexByte imm8
  | .crc8Rom => "CRC8 ROM"
  | .crc8Rec idx => "CRC8 " ++ entryText idx
  | .srchrst => "SRCHRST"
  | .srchnxt => "SRCHNXT"
  | .selectRom => "SELECT ROM"
  | .selectRec idx => "SELECT " ++ entryText idx
  | .convrdRom => "CONVRD ROM"
  | .convrdRec idx => "CONVRD " ++ entryText idx
  | .tdec => "TDEC"
  | .cfgdevRom => "CFGDEV ROM"
  | .cfgdevRec idx => "CFGDEV " ++ entryText idx
  | .enumerate => "ENUM"

/-- The host issues a command: a write of its word to register 0xFF (R90). -/
def HostMove.command (i : Instr) : HostMove := .write 0xFF (encode i)

/-- The checksum command of a selector (R92, R96). -/
def crcOf : Selector → Instr
  | .rom => .crc8Rom
  | .entry idx => .crc8Rec idx

/-- The pseudo-instructions (R111). -/
inductive Pseudo where
  | verify (sel : Selector)
  | first
  | next
  deriving DecidableEq, Repr

/-- The host's moves for a pseudo-instruction (R111): `VERIFY` reads `STATUS` after the command. -/
def Pseudo.moves : Pseudo → List HostMove
  | .verify sel => [.command (crcOf sel), .read 0x00]
  | .first => [.command .srchrst, .command .srchnxt]
  | .next => [.command .srchnxt]

end Sys2Proof.Machine
end

