-- ==== Sys2Proof/WellFormed.lean ====
section
/-! DEFINITION. Which instruction terms name something the controller has. The operand types already hold every
encodable operand and no other; what is left to check is that a record selector names an entry the record has
room for. -/

namespace Sys2Proof

/-- A record index below `MAXDEV` (R33 of 10_state.md, R97 of 30_encoding.md): no enumeration ever makes a larger
one legal, so an ill-formed term is one that the controller rejects in every reachable state. -/
def Instr.wellFormed : Instr → Bool
  | .crc8Rec idx => idx.toNat < Config.maxDev
  | .selectRec idx => idx.toNat < Config.maxDev
  | .convrdRec idx => idx.toNat < Config.maxDev
  | .cfgdevRec idx => idx.toNat < Config.maxDev
  | .owrst => true
  | .owrb => true
  | .owwb _ => true
  | .owrby => true
  | .owwby _ => true
  | .crc8Rom => true
  | .srchrst => true
  | .srchnxt => true
  | .selectRom => true
  | .convrdRom => true
  | .tdec => true
  | .cfgdevRom => true
  | .enumerate => true

end Sys2Proof
end

