-- ==== Sys2Proof/Tests/Slice0.lean ====
section
/-! SUPPORT. The model's own tests. Expected values come from the spec's encodings (30_encoding.md) and its vectors
(V and X numbers of 95_test_vectors.md), never from a run of the model. The last section gives, for every statement
with hypotheses, a concrete state and operands that meet them all. -/

namespace Sys2Proof.Machine.Tests

/-! Helpers: an identifier by its bytes in storage order, the reset state with queued answers, the state a command
leaves, the answers a lone device gives to a search pass. -/

def mkId (b0 b1 b2 b3 b4 b5 b6 b7 : Byte) : Identifier := #v[b0, b1, b2, b3, b4, b5, b6, b7]
def idA : Identifier := mkId 0x45 0 0 0 0 0 0x10 0x28
def idB : Identifier := mkId 0xF3 0 0 0 0 0 0x30 0x28
def idD : Identifier := mkId 0xA0 0 0 0 0 0 0x10 0x10
def idG : Identifier := mkId 0xC2 0 0 0x04 0x7C 0x46 0x4B 0x28
def idX2 : Identifier := mkId 0xC9 0 0 0x04 0x7C 0x46 0x4B 0x28
def withSamples (l : List Bool) : State := { State.reset with samples := l }
def after (i : Instr) (s : State) : State :=
  match exec i s with
  | .next t => t
  | .fault f => nomatch f
  | .refused _ => State.reset
def stepped (s : State) : State :=
  match step s with
  | .next t => t
  | .fault f => nomatch f
  | .refused _ => State.reset
def loneDevice (id : Identifier) : List Bool :=
  false :: wirePositions.flatMap fun c => [wireBit id c, !wireBit id c]
def devA : Device := ⟨idA, 0x91, 0x01, #v[0, 0, 0], 2, .idle⟩

/-! Decoding: words from the opcode map R92 and V1. -/

theorem test_decode_owrst : decode 0b0000000100000000 = .ok .owrst := by decide
theorem test_decode_owrb : decode 0b0000001000000000 = .ok .owrb := by decide
theorem test_decode_owwb : decode 0b0000001100000001 = .ok (.owwb true) := by decide
theorem test_decode_owrby : decode 0b0000010000000000 = .ok .owrby := by decide
theorem test_decode_owwby : decode 0b0000010110100101 = .ok (.owwby 0xA5) := by decide
theorem test_decode_crc8Rom : decode 0b0000011010000000 = .ok .crc8Rom := by decide
theorem test_decode_crc8Rec : decode 0b0000011000000001 = .ok (.crc8Rec 1) := by decide
theorem test_decode_srchrst : decode 0b0000011100000000 = .ok .srchrst := by decide
theorem test_decode_srchnxt : decode 0b0000100000000000 = .ok .srchnxt := by decide
theorem test_decode_selectRom : decode 0b0000100110000000 = .ok .selectRom := by decide
theorem test_decode_selectRec : decode 0b0000100101111111 = .ok (.selectRec 127) := by decide
theorem test_decode_convrdRom : decode 0b0000101010000000 = .ok .convrdRom := by decide
theorem test_decode_convrdRec : decode 0b0000101000000010 = .ok (.convrdRec 2) := by decide
theorem test_decode_tdec : decode 0b0000101100000000 = .ok .tdec := by decide
theorem test_decode_cfgdevRom : decode 0b0000110010000000 = .ok .cfgdevRom := by decide
theorem test_decode_cfgdevRec : decode 0b0000110000000001 = .ok (.cfgdevRec 1) := by decide
theorem test_decode_enumerate : decode 0b0000110100000000 = .ok .enumerate := by decide

/-- V2. -/
theorem test_decode_rejects :
    decode 0x0000 = .error (.reservedOpcode 0) ∧ decode 0x0E00 = .error (.reservedOpcode 0x0E) ∧
    decode 0x0101 = .error (.mustBeZero 1) ∧ decode 0x0302 = .error (.mustBeZero 2) ∧
    decode 0x0681 = .error (.romSelectorIndex 1) := by decide

theorem test_table_word : decodeTableWord 16 0x0901 = some (.selectRec 1) ∧ decodeTableWord 16 0xFFFF = none := by decide

/-! WellFormed: an ill-formed term for each check. -/

theorem test_illFormed_crc8Rec : (Instr.crc8Rec 3).wellFormed = false := by decide
theorem test_illFormed_selectRec : (Instr.selectRec 127).wellFormed = false := by decide
theorem test_illFormed_convrdRec : (Instr.convrdRec 3).wellFormed = false := by decide
theorem test_illFormed_cfgdevRec : (Instr.cfgdevRec 64).wellFormed = false := by decide

/-- R4. -/
theorem test_command_bytes_distinct :
    [Config.cmdSearch, Config.cmdMatch, Config.cmdConvert, Config.cmdReadSp, Config.cmdWriteSp].Nodup := by decide

/-- R110. -/
theorem test_listing : listing (.owwby 0xF0) = "OWWBY 0xF0" ∧ listing (.convrdRec 0) = "CONVRD REC[0]" := by decide +kernel

/-! Commands. -/

/-- V10, V11. -/
theorem test_owrst :
    (after .owrst (withSamples [true])).rcode = .busAbsent ∧ (after .owrst (withSamples [false])).status = 0x02 := by decide
/-- V13. -/
theorem test_owrb : (after .owrb (withSamples [true])).status = 0x04 := by decide
/-- V14. -/
theorem test_owwb : (after (.owwb true) State.reset).history = [.w true] := by decide
/-- V21. -/
theorem test_owrby : (after .owrby (withSamples [true, false, false, false, true, false, false, true])).res = 0x91 := by
  decide +kernel
/-- V20. -/
theorem test_owwby : (after (.owwby 0xF0) State.reset).history =
    [.w false, .w false, .w false, .w false, .w true, .w true, .w true, .w true] := by decide
/-- V30. -/
theorem test_crcByte : crcByte 0x00 0x28 = 0xE1 ∧ crcByte 0x00 0x01 = 0x5E ∧ crcByte 0x00 0xFF = 0x35 := by decide
/-- V31, V32. -/
theorem test_crc8Rom : (after .crc8Rom { State.reset with rom := idG }).rcode = .ok ∧
    (after .crc8Rom { State.reset with rom := idX2 }).res = 0x20 := by decide +kernel
/-- V37, and V2's rejected index. -/
theorem test_crc8Rec :
    (after (.crc8Rec 1) { State.reset with nrec := 2, record := #v[idX2, idB, idX2] }).rcode = .ok ∧
    (after (.crc8Rec 2) { State.reset with nrec := 2, record := #v[idX2, idB, idA] }).rcode = .illegal := by decide +kernel
/-- V39. -/
theorem test_srchrst : (after .srchrst { State.reset with lcp := 14, sst := .deviceFound, rom := idA }).sst = .idle ∧
    (after .srchrst { State.reset with lcp := 14, sst := .deviceFound, rom := idA }).lcp = 0 := by decide
/-- V40. -/
theorem test_srchnxt_one_device :
    (after .srchnxt (withSamples (loneDevice idA))).rom = idA ∧
    (after .srchnxt (withSamples (loneDevice idA))).status = 0x18 := by decide +kernel
/-- V49, second pass: replayed zeros are remembered. -/
theorem test_srchnxt_replay :
    (after .srchnxt { withSamples (List.replicate 129 false) with lcp := 64, sst := .deviceFound }).lcp = 63 := by
  decide +kernel
/-- V46. -/
theorem test_srchnxt_nobody : (after .srchnxt (withSamples [false, true, true])).history =
    .rst true :: (wroteByte 0xF0 ++ [.r true, .r true]) := by decide +kernel
/-- V51. -/
theorem test_selectRom : (after .selectRom { withSamples [false] with rom := idA }).history =
    .rst true :: ([true, false, true, false, true, false, true, false, false, false, false, true, false, true, false, false,
      false, false, false, false, true, false, false, false].map .w ++ List.replicate 40 (.w false) ++
      [true, false, true, false, false, false, true, false].map .w) := by decide +kernel
/-- V53. -/
theorem test_selectRec : (after (.selectRec 0) { withSamples [true] with nrec := 1 }).history = [.rst false] := by decide
/-- V61: device B at its first poll. -/
theorem test_convrdRom : (after .convrdRom { withSamples ([false, true, false] ++
    [false, false, false, false, true, false, true, false] ++ List.replicate 8 true ++ [false]) with rom := idB }).sp0 = 0x50 := by decide +kernel
/-- V66. -/
theorem test_convrdRec_polls : (after (.convrdRec 0) { withSamples [false, false] with nrec := 1 }).busy = true := by decide
/-- V65 rows a, g, i, l. -/
theorem test_tdec : decodeTemp 0x91 0x01 = 0x19 ∧ decodeTemp 0xF8 0xFF = 0x00 ∧ decodeTemp 0x5E 0xFF = 0xF6 ∧
    decodeTemp 0xF8 0x07 = 0x80 := by decide
/-- V67: 105 slots; the write command and the presumed resolution byte on the wire. -/
theorem test_cfgdevRom :
    (after .cfgdevRom { withSamples [false] with rom := idA }).history.length = 105 ∧
    (after .cfgdevRom { withSamples [false] with rom := idA }).history.drop 97 =
      [true, true, true, true, true, false, false, false].map .w := by
  have h : after .cfgdevRom { withSamples [false] with rom := idA } =
      State.done (State.bus (configuredEvents idA) { withSamples [false] with rom := idA }) := by
    simp [after, exec, execCfgdevRom, withSelected, State.selected, configCommand, configure_eq, withSamples, State.level]
  rw [h]
  exact ⟨rfl, rfl⟩
/-- V68. -/
theorem test_cfgdevRec : (after (.cfgdevRec 0) { withSamples [true] with nrec := 1 }).rcode = .busAbsent := by decide
/-- V73. -/
theorem test_enumerate_foreign :
    (after .enumerate (withSamples (loneDevice idD))).rom = idD ∧
    (after .enumerate (withSamples (loneDevice idD))).nrec = 0 ∧
    (after .enumerate (withSamples (loneDevice idD))).rcode = .ok := by decide +kernel
/-- V40 and R219: the lone device of the family is recorded though its configuration sees no presence. -/
theorem test_enumerate_family :
    (after .enumerate (withSamples (loneDevice idA ++ [true]))).history.length = 202 ∧
    (after .enumerate (withSamples (loneDevice idA ++ [true]))).record[0] = idA ∧
    (after .enumerate (withSamples (loneDevice idA ++ [true]))).status = 0x18 := by decide +kernel

/-! The line, the host port, reset, the reference devices. -/

/-- V15. -/
theorem test_critical_section : (runActions (readSlot.take 5) (withSamples [true])).st.imask = true ∧
    (runActions readSlot (withSamples [true])).st.imask = false := by decide
/-- R132. -/
theorem test_slot_times : actionsTime readSlot = 70 ∧ actionsTime (writeSlot true) = 70 ∧
    actionsTime (writeSlot false) = 70 ∧ actionsTime resetSlot = 960 := by decide
/-- V92. -/
theorem test_rom_write :
    (stepped { State.reset with host := [.write 0x17 0x28] }).rom[7] = 0x28 ∧
    (stepped { State.reset with host := [.write 0x04 0x55] }).res = 0 := by decide
/-- V92. -/
theorem test_record_read :
    (stepped { State.reset with record := #v[idA, idB, idA], host := [.read 0x2F] }).hostReads = [0x28] := by decide
/-- V2 and V5. -/
theorem test_rejected_word : (stepped { State.reset with host := [.write 0xFF 0x0000] }).rcode = .illegal := by decide
/-- V91. -/
theorem test_reset_ends_hang :
    (stepped { State.reset with inflight := some (.poll idA), history := [.r false], host := [.reset] }).busy = false ∧
    (stepped { State.reset with inflight := some (.poll idA), history := [.r false], host := [.reset] }).history =
      [.r false] := by decide
/-- R260: a reset after two slots of a byte write. -/
theorem test_reset_cuts_command :
    (stepped { State.reset with host := [.resetAfter 2, .write 0xFF 0x05FF] }).history = [.w true, .w true] := by decide
/-- R90: the placed word is the one the next step runs. -/
theorem test_fetch_word : (stepped (State.reset.withFetchWord 16 0x0301)).history = [.w true] := by decide
/-- V40: the reference device explains the pass that finds it. -/
theorem test_device_explains :
    explains [devA] (after .srchnxt (withSamples (loneDevice idA))).history = true := by decide +kernel
/-- V60: device A answers two polls with 0 and then 1. -/
theorem test_device_polls : explains [devA]
    (selectedEvents idA ++ (wroteByte 0x44 ++ [.r false, .r false, .r true])) = true := by decide +kernel

/-! Witnesses: for every statement with hypotheses, states and operands that meet them all, each clause at a boundary
of its range. -/

def devB : Device := ⟨idB, 0x50, 0x05, #v[0, 0, 0], 0, .idle⟩
/-- The answers of two devices to the pass that finds `id`, their only conflict being at wire bit `c0`. -/
def twoDevices (c0 : Nat) (id : Identifier) : List Bool :=
  false :: wirePositions.flatMap fun c => if c = c0 then [false, false] else [wireBit id c, !wireBit id c]
def idle (m : HostMove) : State := { State.reset with host := [m] }
def polling : State := { State.reset with inflight := some (.poll idA) }
def full : State := { State.reset with nrec := 3, record := #v[idA, idB, idG] }
def enumerating (l : List Bool) : State :=
  { withSamples l with inflight := some .enumerate, nrec := 2, record := #v[idA, idB, idA], sst := .deviceFound, lcp := 64 }

theorem enumerating_inv (l : List Bool) : Inv (enumerating l) where
  lcp_range := Nat.le_refl 64
  nrec_range := Nat.le_succ 2
  line_released := rfl
  not_searching := by simp [enumerating]
  search_cleared := by simp [enumerating]
  found_flag := fun _ => rfl
  family_recorded := by
    intro n h hn
    match n, hn with
    | 0, _ => rfl
    | 1, _ => rfl
    | k + 2, hk => exact absurd hk (by simp [enumerating])
  enum_goes_on := fun _ => ⟨Nat.lt_succ_self 2, rfl⟩

theorem witness_DecodeEncodeAgree : decode 0x05A5 = .ok (.owwby 0xA5) := by decide
theorem witness_OpcodeTableIsTheDecoder :
    (Instr.selectRec 0).row.covers 0x097F = true ∧ (Instr.selectRec 127).row.covers 0x097F = true := by decide
theorem witness_ReservedOpcodesRejected : (0x00FF#16).toNat / 256 = 0 ∧ 0x0E ≤ (0x0E00#16).toNat / 256 ∧
    0x0E ≤ (0xFFFF#16).toNat / 256 := by decide
theorem witness_OperandFieldsChecked :
    (0x0D#8 ∈ [0x01#8, 0x02#8, 0x04#8, 0x07#8, 0x08#8, 0x0B#8, 0x0D#8] ∧ (0x80#8 : Byte) ≠ 0) ∧
    (1#8).toNat / 2 = 0 ∧ (2#8).toNat / 2 ≠ 0 := by decide
theorem witness_StepRunsDecodedCommand : (idle (.write 0xFF 0x0301)).host = [.write 0xFF 0x0301] ∧
    (idle (.write 0xFF 0x0301)).busy = false ∧ decode 0x0301 = .ok (.owwb true) := by decide
theorem witness_RejectedWord_reserved : (idle (.write 0xFF 0)).host = [.write 0xFF 0] ∧
    (idle (.write 0xFF 0)).busy = false ∧ decode 0 = .error (.reservedOpcode 0) := by decide
theorem witness_RejectedWord_selector :
    full.nrec.toNat ≤ (3#7).toNat ∧ full.busy = false ∧ decode 0x0603 = .ok (.crc8Rec 3) ∧ decode 0x0903 = .ok (.selectRec 3) ∧
    decode 0x0A03 = .ok (.convrdRec 3) ∧ decode 0x0C03 = .ok (.cfgdevRec 3) := by decide
/-- Of the record forms in `Crc8Effect`, `SelectEffect`, `CfgdevEffect`, `ConvrdEffect` too. -/
theorem witness_SelectorLegality : (full.nrec.toNat ≤ (3#7).toNat ∧ full.nrec.toNat ≤ (127#7).toNat) ∧
    (2#7).toNat < Config.maxDev ∧ (2#7).toNat < full.nrec.toNat ∧ State.reset.nrec.toNat ≤ (0#7).toNat := by decide
theorem witness_HostWaitsWhileBusy :
    (({ polling with host := [.write 0xFF 0x0100, .read 0] }).busy = true ∧
      ({ polling with host := [.write 0xFF 0x0100, .read 0] }).host = .write 0xFF 0x0100 :: [.read 0]) ∧
    ({ polling with host := [.read 0xFF] }).busy = true ∧
    ({ polling with host := [.read 0xFF] }).host = .read 0xFF :: [] := by decide
theorem witness_RegisterMapReads : (0x09 ≤ 0x0F ∧ 0x0F < 0x10) ∧ (0x18 ≤ 0x1F ∧ 0x1F < 0x20) ∧
    (0x20 + 8 * Config.maxDev ≤ 0x38 ∧ 0x38 < 0x100) ∧ (0x20 + 8 * Config.maxDev ≤ 0xFF ∧ 0xFF < 0x100) ∧
    0x20 + 8 * 2 + 7 < 0x20 + 8 * Config.maxDev := by decide
theorem witness_HostAccessWhileIdle :
    (idle (.read 0x08)).busy = false ∧ (idle (.write 0x17 1)).busy = false ∧ (0x17#8).toNat = 0x10 + (7 : Fin 8).val ∧
    (0x10#8).toNat = 0x10 + (0 : Fin 8).val ∧ (0x17#8 : Byte) ≠ 0xFF ∧ (0x0F#8).toNat < 0x10 ∧ 0x18 ≤ (0x18#8).toNat ∧
    0x18 ≤ (0xFE#8).toNat ∧ (0xFE#8 : Byte) ≠ 0xFF := by decide
theorem witness_IdleControllerDoesNothing : full.host = [] ∧ full.busy = false := by decide
theorem witness_EnvironmentOwnsImask : ({ polling with host := [.irqMask true] }).host = [.irqMask true] := by decide
theorem witness_HardwareReset : ({ polling with host := [.reset, .read 0] }).host = .reset :: [.read 0] := by decide
theorem witness_ResetCutsRunningStep :
    ({ polling with samples := [false], host := [.resetAfter 0] }).host = .resetAfter 0 :: [] ∧
    ∃ t, advance { polling with samples := [false], host := [] } = .next t := ⟨rfl, _, rfl⟩
theorem witness_SlotsRunInCriticalSections : resetSlot ∈ [resetSlot, readSlot, writeSlot false, writeSlot true] ∧
    0 < 1 ∧ 1 < resetSlot.length ∧ 0 < resetSlot.length - 1 ∧ resetSlot.length - 1 < resetSlot.length := by decide
theorem witness_LineReleasedWhenSampled : resetSlot[6]? = some .sample ∧ readSlot[5]? = some .sample := by decide
theorem witness_EchoRoundTrip : Echo (byteBits 0xA5) (withSamples (byteBits 0xA5)) ∧
    ∃ t, exec (.owwby 0xA5) (withSamples (byteBits 0xA5)) = .next t :=
  ⟨fun _ h => State.level_of_samples h, _, rfl⟩
theorem witness_CrcDetectsSingleBitFlips : crc8 idG = 0 ∧ 1 ≤ 1 ∧ 1 ≤ 64 ∧ 64 ≤ 64 := by decide +kernel
theorem witness_SrchnxtRejectedAfterLastDevice : ({ State.reset with ldf := true, sst := .deviceFound }).ldf = true := rfl
theorem witness_SrchnxtBusError : (withSamples [true]).ldf = false ∧ (withSamples [true]).level 0 = true := by decide
theorem witness_SrchnxtNoDevice_first : (withSamples [false, true, true]).ldf = false ∧
    (withSamples [false, true, true]).level 0 = false ∧ silentAt (withSamples [false, true, true]) (0 + 1) = true := by decide
theorem witness_SrchnxtNoDevice_last :
    (withSamples ((loneDevice idA).take 127 ++ [true, true])).level 0 = false ∧ 63 < 64 ∧
    ((List.range' 1 63).all fun c => !silentAt (withSamples ((loneDevice idA).take 127 ++ [true, true])) c) = true ∧
    silentAt (withSamples ((loneDevice idA).take 127 ++ [true, true])) (63 + 1) = true := by decide +kernel
theorem witness_SrchnxtDeviceFound : (withSamples (twoDevices 14 idA)).ldf = false ∧
    (withSamples (twoDevices 14 idA)).level 0 = false ∧
    (wirePositions.all fun c => !silentAt (withSamples (twoDevices 14 idA)) c) = true := by decide +kernel
theorem witness_SingleDeviceFoundInOnePass : (withSamples (loneDevice idA)).ldf = false ∧
    (withSamples (loneDevice idA)).lcp = 0 ∧
    exec .srchnxt (withSamples (loneDevice idA)) = .next (after .srchnxt (withSamples (loneDevice idA))) ∧
    explains [devA] (newEvents (withSamples (loneDevice idA)) (after .srchnxt (withSamples (loneDevice idA)))) = true :=
  ⟨rfl, rfl, rfl, by decide +kernel⟩
theorem witness_EnumerationIsComplete :
    let s := withSamples (twoDevices 14 idA ++ twoDevices 14 idB)
    let s0 := after .srchrst s
    let last := after .srchnxt (after .srchnxt s0)
    ([devA, devB].map Device.id).Nodup ∧ crc8 idA = 0 ∧ crc8 idB = 0 ∧ exec .srchrst s = .next s0 ∧
      (passStates 2 s0).getLast? = some last ∧ explains [devA, devB] (newEvents s0 last) = true :=
  ⟨by decide +kernel, by decide +kernel, by decide +kernel, rfl, rfl, by decide +kernel⟩
theorem witness_IdentifierTravelsInWireOrder : 1 ≤ 1 ∧ 1 ≤ 64 ∧ 64 ≤ 64 := by decide
theorem witness_PollEffect : polling.host = [] ∧ polling.inflight = some (.poll idA) := by decide
theorem witness_SessionCompletes_ready : (withSamples [false, true, false]).host = [] ∧
    (withSamples [false, true, false]).level 0 = false ∧ (withSamples [false, true, false]).level (0 + 1) = true ∧
    (withSamples [false, true, false]).level (0 + 2) = false := by decide
theorem witness_SessionCompletes_busy : (withSamples [false, false, true, false]).host = [] ∧
    (withSamples [false, false, true, false]).level 0 = false ∧ (withSamples [false, false, true, false]).level 1 = false ∧
    (withSamples [false, false, true, false]).level (1 + 1) = true ∧
    (withSamples [false, false, true, false]).level (1 + 2) = false := by decide
theorem witness_SessionCompletes_entry : ({ full with samples := [false, true, false] }).host = [] ∧
    ({ full with samples := [false, true, false] }).level 0 = false ∧
    ({ full with samples := [false, true, false] }).level (0 + 1) = true ∧
    ({ full with samples := [false, true, false] }).level (0 + 2) = false ∧
    (2#7).toNat < Config.maxDev ∧ (2#7).toNat < ({ full with samples := [false, true, false] }).nrec.toNat := by decide
theorem witness_PollHasNoTimeout : ({ polling with samples := [false, false, false] }).host = [] ∧
    ({ polling with samples := [false, false, false] }).inflight = some (.poll idA) ∧
    ({ polling with samples := [false, false, false] }).drv = false ∧
    StuckLow 3 { polling with samples := [false, false, false] } := by
  refine ⟨rfl, rfl, rfl, ?_⟩
  intro k hk
  match k, hk with
  | 0, _ => rfl
  | 1, _ => rfl
  | 2, _ => rfl
theorem witness_TdecRoundsToNearest :
    (((0x07#8 ++ 0xF0#8 : BitVec 16).toInt + 8) / 16 = 127) ∧ (((0xF7#8 ++ 0xF8#8 : BitVec 16).toInt + 8) / 16 = -128) ∧
    (((0x07#8 ++ 0xF8#8 : BitVec 16).toInt + 8) / 16 = 128) := by decide
/-- The three first-pass outcomes and the two codes of a complete pass. -/
theorem witness_EnumEffect :
    (after .srchnxt (withSamples [true])).rcode = .busAbsent ∧
    (after .srchnxt (withSamples [false, true, true])).rcode = .searchAnomaly ∧
    ((after .srchnxt (withSamples (loneDevice idD))).rcode = .ok ∧
      (after .srchnxt (withSamples (loneDevice idD))).rom[7] ≠ Config.family) ∧
    (after .srchnxt (withSamples (loneDevice idX2))).rcode = .crcMismatch ∧
    (after .srchnxt (withSamples (loneDevice idX2))).rom[7] = Config.family := by decide +kernel
theorem witness_EnumIteration :
    (enumerating []).nrec.toNat < Config.maxDev ∧ (enumerating []).host = [] ∧ (enumerating []).inflight = some .enumerate ∧
    (enumerating []).ldf = false ∧ (after .srchnxt (enumerating [true])).rcode = .busAbsent ∧
    ((after .srchnxt (enumerating (loneDevice idD))).rcode = .ok ∧
      (after .srchnxt (enumerating (loneDevice idD))).rom[7] ≠ Config.family) ∧
    (after .srchnxt (enumerating (loneDevice idG))).rcode = .ok ∧
    (after .srchnxt (enumerating (loneDevice idG))).rom[7] = Config.family := by decide +kernel
/-- Every sequence of answers, for any number of passes. -/
theorem witness_EnumNeedNotEnd (answers : Nat → Bool) (n : Nat) :
    let s := { idle (.write 0xFF (encode .enumerate)) with samples := (List.range (129 * (n + 1))).map answers }
    s.host = [.write 0xFF (encode .enumerate)] ∧ s.busy = false ∧ ∀ k, k < 129 * (n + 1) → s.level k = answers k := by
  refine ⟨rfl, rfl, fun k hk => ?_⟩
  rw [State.level_of_samples (by simpa using hk)]
  simp
theorem witness_StepKeepsInv : Inv (enumerating []) ∧ ∃ t, step (enumerating []) = .next t :=
  ⟨enumerating_inv [], _, rfl⟩
theorem witness_HistoryOnlyGrows : ∃ t, step (idle (.write 0xFF 0x0301)) = .next t := ⟨_, rfl⟩
/-- The same answers, the first of them queued in one state and free in the other. -/
theorem witness_AnswersAloneDecide : ∀ k, State.level State.reset k =
    State.level { State.reset with samples := [Config.freeLevel 0], freeTaken := 1 } k := by
  intro k
  cases k with
  | zero => rfl
  | succ k => simp [State.level, State.reset, Nat.add_comm]
/-- Every register the two statements name changes somewhere. -/
theorem witness_ResultRegisterWriters :
    (after .owrst (withSamples [false])).pres ≠ State.reset.pres ∧ (after .owrb (withSamples [true])).bit ≠ State.reset.bit ∧
    (after .owrby (withSamples (List.replicate 8 true))).res ≠ State.reset.res ∧
    (after .tdec { State.reset with sp0 := 0x91 }).temp ≠ State.reset.temp ∧
    (after .convrdRom (withSamples (false :: true :: false :: List.replicate 17 true))).sp1 ≠ State.reset.sp1 := by
  decide +kernel
theorem witness_SearchRegisterWriters :
    (after .srchnxt (withSamples (loneDevice idA))).rom ≠ State.reset.rom ∧
    (after .srchnxt (withSamples (loneDevice idA))).ldf ≠ State.reset.ldf ∧
    (after .srchnxt (withSamples (loneDevice idA))).crcv ≠ State.reset.crcv ∧
    (after .enumerate (withSamples (loneDevice idA ++ [true]))).nrec ≠ State.reset.nrec := by decide +kernel
theorem witness_OnlyEnumChangesTheRecord :
    ¬ resetNext { withSamples (loneDevice idA ++ [true]) with host := [.write 0xFF 0x0D00] } ∧
    (stepped { withSamples (loneDevice idA ++ [true]) with host := [.write 0xFF 0x0D00] }).nrec ≠ State.reset.nrec ∧
    (stepped { withSamples (loneDevice idA ++ [true]) with host := [.write 0xFF 0x0D00] }).nrec.toNat ≤ 1 :=
  ⟨by simp [resetNext], by decide +kernel, by decide +kernel⟩
theorem witness_BoundedCommandsEnd : mayHang .srchnxt = false ∧ State.reset.busy = false := by decide

end Sys2Proof.Machine.Tests
end

section
/-! The state family: what each register number reads, which commands write which registers, and the invariant of
every step. One inversion lemma for `exec` and one for `step` say once what a command and a step can do. -/

namespace Sys2Proof.Machine

/-! ## The register map (R40, R41) -/

/-- The five flags in bits 0 to 4 of `STATUS`, bits 7 to 5 zero. -/
theorem status_bits (s : State) :
    s.status.getLsbD 0 = s.busy ∧ s.status.getLsbD 1 = s.pres ∧ s.status.getLsbD 2 = s.bit ∧
      s.status.getLsbD 3 = s.crcv ∧ s.status.getLsbD 4 = s.ldf ∧ s.status.toNat < 32 := by
  unfold State.status
  generalize s.busy = busy, s.pres = pres, s.bit = bit, s.crcv = crcv, s.ldf = ldf
  revert busy pres bit crcv ldf
  decide

/-- From 0x09 on the map holds the buffer, the record and reserved numbers only. -/
theorem readReg_high (s : State) (n : Byte) (h : 9 ≤ n.toNat) :
    s.readReg n =
      if 0x10 ≤ n.toNat ∧ n.toNat < 0x18 then (s.rom[n.toNat - 0x10]?).getD 0
      else if 0x20 ≤ n.toNat ∧ n.toNat < 0x20 + 8 * Config.maxDev then
        ((s.record[(n.toNat - 0x20) / 8]?).bind fun e => e[(n.toNat - 0x20) % 8]?).getD 0
      else 0 := by
  unfold State.readReg
  split
  case h_10 => rfl
  all_goals omega

theorem readReg_rom (s : State) (i : Nat) (h : i < 8) : s.readReg (BitVec.ofNat 8 (0x10 + i)) = s.rom[i] := by
  have hn : (BitVec.ofNat 8 (0x10 + i)).toNat = 0x10 + i := by simp; omega
  rw [readReg_high s _ (by omega), hn, if_pos (by omega)]
  simp [h]

theorem readReg_record (s : State) (n j : Nat) (hn : n < Config.maxDev) (hj : j < 8) :
    s.readReg (BitVec.ofNat 8 (0x20 + 8 * n + j)) = (s.record[n]'hn)[j] := by
  have hmax : Config.maxDev = 3 := rfl
  have hk : (BitVec.ofNat 8 (0x20 + 8 * n + j)).toNat = 0x20 + 8 * n + j := by simp; omega
  have hdiv : (0x20 + 8 * n + j - 0x20) / 8 = n := by omega
  have hmod : (0x20 + 8 * n + j - 0x20) % 8 = j := by omega
  rw [readReg_high s _ (by omega), hk, if_neg (by omega), if_pos (by omega), hdiv, hmod]
  simp [hn, hj]

theorem readReg_reserved (s : State) (k : Nat)
    (h : (0x09 ≤ k ∧ k < 0x10) ∨ (0x18 ≤ k ∧ k < 0x20) ∨ (0x20 + 8 * Config.maxDev ≤ k ∧ k < 0x100)) :
    s.readReg (BitVec.ofNat 8 k) = 0 := by
  have hmax : Config.maxDev = 3 := rfl
  have hk : (BitVec.ofNat 8 k).toNat = k := by simp; omega
  rw [readReg_high s _ (by omega), hk, if_neg (by omega), if_neg (by omega)]

/-- Settles O10: the single registers read by definition, `STATUS` bit by bit, the rest by `readReg_high`. -/
theorem registerMapReads : Obligations.RegisterMapReads := by
  intro s
  have hlcp : (s.readReg 0x03).toNat = s.lcp.toNat := BitVec.toNat_setWidth_of_le (by decide)
  exact ⟨by cases h : s.rcode <;> simp [State.readReg, ResultCode.code, h],
    by cases h : s.sst <;> simp [State.readReg, SearchState.code, h],
    hlcp, rfl, rfl, rfl, rfl, rfl, status_bits s, readReg_rom s, readReg_record s, readReg_reserved s⟩

/-- Settles O13: it is the step law of the `IMASK` move. -/
theorem environmentOwnsImask : Obligations.EnvironmentOwnsImask := fun _ _ _ => step_irqMask

/-! ## Frames of the commands -/

/-- `IMASK` and the host's two queues are as they were. -/
structure SameEnv (s t : State) : Prop where
  imask : t.imask = s.imask
  host : t.host = s.host
  hostReads : t.hostReads = s.hostReads

/-- The Sensor Record is as it was, too. -/
structure SameRecord (s t : State) : Prop extends SameEnv s t where
  nrec : t.nrec = s.nrec
  record : t.record = s.record

/-- The buffer, the search state and `CRCV` are as they were, too; the line stays released, and no enumeration was
put in flight. -/
structure SameSearch (s t : State) : Prop extends SameRecord s t where
  rom : t.rom = s.rom
  lcp : t.lcp = s.lcp
  ldf : t.ldf = s.ldf
  sst : t.sst = s.sst
  crcv : t.crcv = s.crcv
  line : s.drv = false → t.drv = false
  noEnum : t.inflight = some .enumerate → s.inflight = some .enumerate

theorem SameEnv.trans {s t u : State} (h : SameEnv s t) (h' : SameEnv t u) : SameEnv s u :=
  ⟨h'.imask.trans h.imask, h'.host.trans h.host, h'.hostReads.trans h.hostReads⟩

theorem SameRecord.trans {s t u : State} (h : SameRecord s t) (h' : SameRecord t u) : SameRecord s u where
  toSameEnv := h.toSameEnv.trans h'.toSameEnv
  nrec := h'.nrec.trans h.nrec
  record := h'.record.trans h.record

theorem sameSearch_refl (s : State) : SameSearch s s where
  imask := rfl
  host := rfl
  hostReads := rfl
  nrec := rfl
  record := rfl
  rom := rfl
  lcp := rfl
  ldf := rfl
  sst := rfl
  crcv := rfl
  line := id
  noEnum := id

theorem sameSearch_bus (es : List Event) (s : State) : SameSearch s (s.bus es) :=
  { sameSearch_refl s with line := fun _ => rfl }

theorem sameSearch_reject (s : State) : SameSearch s s.reject := { sameSearch_refl s with }

theorem SameSearch.finish {s t : State} (h : SameSearch s t) (c : ResultCode) : SameSearch s (t.finish c) :=
  { h with noEnum := nofun }

theorem SameSearch.trans {s t u : State} (h : SameSearch s t) (h' : SameSearch t u) : SameSearch s u where
  toSameRecord := h.toSameRecord.trans h'.toSameRecord
  rom := h'.rom.trans h.rom
  lcp := h'.lcp.trans h.lcp
  ldf := h'.ldf.trans h.ldf
  sst := h'.sst.trans h.sst
  crcv := h'.crcv.trans h.crcv
  line := h'.line ∘ h.line
  noEnum := h.noEnum ∘ h'.noEnum

/-- A selector's body or the rejection of the word (R96, R97). -/
theorem withSelected_cases (sel : Selector) (body : Identifier → State → State) (s : State) :
    withSelected sel body s = s.reject ∨ ∃ id, withSelected sel body s = body id s := by
  unfold withSelected
  cases s.selected sel with
  | none => exact .inl rfl
  | some id => exact .inr ⟨id, rfl⟩

/-- A selector command keeps what its body keeps. -/
theorem sameSearch_withSelected (sel : Selector) {body : Identifier → State → State}
    (hbody : ∀ id s, SameSearch s (body id s)) (s : State) : SameSearch s (withSelected sel body s) := by
  obtain h | ⟨id, h⟩ := withSelected_cases sel body s
  · exact h ▸ sameSearch_reject s
  · exact h ▸ hbody id s

theorem sameSearch_resetCommand (s : State) : SameSearch s (resetCommand s) := by
  have h (p : Bool) : SameSearch s { s.bus [.rst p] with pres := p } := { sameSearch_bus [.rst p] s with }
  cases hl : s.level 0
  · simpa [resetCommand, busReset_eq, hl] using (h true).finish .ok
  · simpa [resetCommand, busReset_eq, hl] using (h false).finish .busAbsent

theorem sameSearch_selectCommand (id : Identifier) (s : State) : SameSearch s (selectCommand id s) := by
  have h (es : List Event) (p : Bool) : SameSearch s { s.bus es with pres := p } := { sameSearch_bus es s with }
  cases hl : s.level 0
  · simpa [selectCommand, selectDevice_eq, hl] using (h (selectedEvents id) true).finish .ok
  · simpa [selectCommand, selectDevice_eq, hl] using (h [.rst false] false).finish .busAbsent

theorem sameSearch_configCommand (id : Identifier) (s : State) : SameSearch s (configCommand id s) := by
  cases hl : s.level 0
  · simpa [configCommand, configure_eq, hl] using (sameSearch_bus (configuredEvents id) s).finish .ok
  · simpa [configCommand, configure_eq, hl] using (sameSearch_bus [.rst false] s).finish .busAbsent

theorem sameSearch_readSession (id : Identifier) (s : State) : SameSearch s (readSession id s) := by
  have h (es : List Event) (lo hi : Byte) : SameSearch s { s.bus es with sp0 := lo, sp1 := hi } :=
    { sameSearch_bus es s with }
  rw [readSession_eq]
  split
  · exact (sameSearch_bus _ s).finish _
  · exact (h _ _ _).finish _

theorem sameSearch_pollStep (id : Identifier) (s : State) : SameSearch s (pollStep id s) := by
  rw [pollStep_eq]
  split
  · exact (sameSearch_bus _ s).trans (sameSearch_readSession id _)
  · exact { sameSearch_bus [.r false] s with noEnum := nofun }

theorem sameSearch_convertCommand (id : Identifier) (s : State) : SameSearch s (convertCommand id s) := by
  rw [convertCommand_eq]
  split
  · exact (sameSearch_bus _ s).finish _
  · exact (sameSearch_bus _ s).trans (sameSearch_pollStep id _)

/-- What an accepted command can do: leave the search registers and the record alone, or be one of the four that
write them, with the state it leaves. -/
theorem exec_cases {i : Instr} {s t : State} (h : exec i s = .next t) :
    SameSearch s t ∨
    (i = .srchrst ∧ t = s.clearSearch.finish .ok) ∨
    (i = .srchnxt ∧ t = searchCommand s) ∨
    (i = .enumerate ∧ t = enumStep (State.clearSearch { s with nrec := 0 })) ∨
    ((i = .crc8Rom ∨ ∃ idx, i = .crc8Rec idx) ∧ ∃ id, t = crcCommand id s) := by
  cases i <;> obtain rfl := Host.Outcome.next.inj h
  case owrst => exact .inl (sameSearch_resetCommand s)
  case owrb =>
    have hb : SameSearch s { (busRead s).2 with bit := (busRead s).1 } := by
      rw [busRead_eq]; exact { sameSearch_bus [.r (s.level 0)] s with }
    exact .inl (hb.finish .ok)
  case owwb b => exact .inl (busWrite_eq b s ▸ (sameSearch_bus _ s).finish .ok)
  case owrby =>
    have hb : SameSearch s { (readByte s).2 with res := (readByte s).1 } := by
      rw [readByte_eq]; exact { sameSearch_bus ((s.levels 0 8).map .r) s with }
    exact .inl (hb.finish .ok)
  case owwby v => exact .inl (writeByte_eq v s ▸ (sameSearch_bus _ s).finish .ok)
  case crc8Rom => exact .inr (.inr (.inr (.inr ⟨.inl rfl, s.rom, rfl⟩)))
  case crc8Rec idx =>
    obtain h | h := withSelected_cases (.entry idx) crcCommand s
    · exact .inl (h ▸ sameSearch_reject s)
    · exact .inr (.inr (.inr (.inr ⟨.inr ⟨idx, rfl⟩, h⟩)))
  case srchrst => exact .inr (.inl ⟨rfl, rfl⟩)
  case srchnxt => exact .inr (.inr (.inl ⟨rfl, rfl⟩))
  case enumerate => exact .inr (.inr (.inr (.inl ⟨rfl, rfl⟩)))
  case selectRom => exact .inl (sameSearch_selectCommand s.rom s)
  case selectRec idx => exact .inl (sameSearch_withSelected _ sameSearch_selectCommand s)
  case convrdRom => exact .inl (sameSearch_convertCommand s.rom s)
  case convrdRec idx => exact .inl (sameSearch_withSelected _ sameSearch_convertCommand s)
  case tdec =>
    have hb : SameSearch s { s with temp := decodeTemp s.sp0 s.sp1 } := { sameSearch_refl s with }
    exact .inl (hb.finish .ok)
  case cfgdevRom => exact .inl (sameSearch_configCommand s.rom s)
  case cfgdevRec idx => exact .inl (sameSearch_withSelected _ sameSearch_configCommand s)

/-! ## Frames of the search and the enumeration -/

theorem sameRecord_passState (s : State) (n : Nat) : SameRecord s (passState s n) :=
  have h (rom : Identifier) : SameRecord s { s with rom := rom } := ⟨⟨rfl, rfl, rfl⟩, rfl, rfl⟩
  (h (passRom s n)).trans (sameSearch_bus (passEvents s n) _).toSameRecord

theorem sameRecord_abortSearch (why : SearchState) (s : State) : SameRecord s (s.abortSearch why) :=
  ⟨⟨rfl, rfl, rfl⟩, rfl, rfl⟩

theorem sameRecord_completePass (lastZero : Nat) (s : State) : SameRecord s (completePass lastZero s) :=
  ⟨⟨rfl, rfl, rfl⟩, rfl, rfl⟩

theorem sameRecord_searchPass (s : State) : SameRecord s (searchPass s).2 := by
  obtain ⟨-, h⟩ | ⟨-, -, h⟩ | ⟨k, -, -, -, -, h⟩ := searchPass_cases s <;> rw [h]
  · exact (sameSearch_bus _ s).toSameRecord.trans (sameRecord_abortSearch _ _)
  · exact (sameRecord_passState s 64).trans (sameRecord_completePass _ _)
  · exact ((sameRecord_passState s k).trans (sameSearch_bus _ _).toSameRecord).trans (sameRecord_abortSearch _ _)

theorem sameRecord_searchCommand (s : State) : SameRecord s (searchCommand s) := by
  unfold searchCommand
  split
  · exact (sameSearch_reject s).toSameRecord
  · exact { sameRecord_searchPass s with }

/-- A found device is skipped or becomes the entry `NREC`, and its configuration leaves slots only (R215, R216). -/
theorem recordFound_cases (s : State) :
    recordFound s = s ∨ s.rom[7] = Config.family ∧ ∃ es, recordFound s =
      State.bus es { s with record := s.record.setIfInBounds s.nrec.toNat s.rom, nrec := s.nrec + 1 } := by
  unfold recordFound
  split
  case isTrue hfam =>
    refine .inr ⟨hfam, ?_⟩
    rw [configure_eq]
    split <;> exact ⟨_, rfl⟩
  case isFalse => exact .inl rfl

/-- One iteration of the enumeration ends the command, before or after its pass, or records what the pass found
(R215, R217, R218). -/
theorem enumStep_cases (s : State) :
    (enumMore s = false ∧ enumStep s = s.finish .ok) ∨
    (enumMore s = true ∧ ∃ c, enumStep s = (searchPass s).2.finish c) ∨
    (enumMore s = true ∧ enumStep s = enumNext (recordFound (searchPass s).2)) := by
  unfold enumStep
  cases hm : enumMore s with
  | false => exact .inl ⟨rfl, rfl⟩
  | true =>
    obtain ⟨c, t⟩ := searchPass s
    cases c with
    | busAbsent => exact .inr (.inl ⟨rfl, _, rfl⟩)
    | searchAnomaly => exact .inr (.inl ⟨rfl, _, rfl⟩)
    | ok => exact .inr (.inr ⟨rfl, rfl⟩)
    | crcMismatch => exact .inr (.inr ⟨rfl, rfl⟩)
    | illegal => exact .inr (.inr ⟨rfl, rfl⟩)

theorem sameEnv_recordFound (s : State) : SameEnv s (recordFound s) := by
  obtain h | ⟨-, es, h⟩ := recordFound_cases s <;> rw [h] <;> constructor <;> rfl

theorem sameEnv_enumNext (s : State) : SameEnv s (enumNext s) := by
  unfold enumNext
  split <;> constructor <;> rfl

theorem sameEnv_enumStep (s : State) : SameEnv s (enumStep s) := by
  have hpass := (sameRecord_searchPass s).toSameEnv
  obtain ⟨-, h⟩ | ⟨-, c, h⟩ | ⟨-, h⟩ := enumStep_cases s <;> rw [h]
  · constructor <;> rfl
  · exact { hpass with }
  · exact (hpass.trans (sameEnv_recordFound _)).trans (sameEnv_enumNext _)

/-- Settles O54: by `exec_cases`, each of the four writers with the frame of its own state. -/
theorem searchRegisterWriters : Obligations.SearchRegisterWriters := by
  intro i s t hexec
  obtain h | ⟨rfl, rfl⟩ | ⟨rfl, rfl⟩ | ⟨rfl, rfl⟩ | ⟨hi, id, rfl⟩ := exec_cases hexec
  · simp [h.rom, h.lcp, h.ldf, h.sst, h.crcv, h.nrec, h.record, h.imask, h.host, h.hostReads]
  · simp
  · have h := sameRecord_searchCommand s
    simp [h.nrec, h.record, h.imask, h.host, h.hostReads]
  · have h := sameEnv_enumStep (State.clearSearch { s with nrec := 0 })
    exact ⟨by simp, by simp, by simp, by simp, h.imask, h.host, h.hostReads⟩
  · obtain rfl | ⟨idx, rfl⟩ := hi <;> simp [crcCommand]

/-! ## The invariant -/

/-- The clauses of `Inv` on the line and the search state, as every pass leaves them (R25, R29, R31, R34). -/
structure SearchSettled (s : State) : Prop where
  lcp_range : s.lcp.toNat ≤ 64
  line_released : s.drv = false
  not_searching : s.sst ≠ .searching
  search_cleared : s.sst ≠ .deviceFound → s.lcp = 0 ∧ s.ldf = false
  found_flag : s.sst = .deviceFound → s.ldf = decide (s.lcp = 0)

/-- The clauses of `Inv` on the Sensor Record (R33, R216). -/
structure RecordOfFamily (s : State) : Prop where
  nrec_range : s.nrec.toNat ≤ Config.maxDev
  family_recorded : ∀ (n : Nat) (h : n < Config.maxDev), n < s.nrec.toNat → (s.record[n]'h)[7] = Config.family

theorem Inv.settled {s : State} (hi : Inv s) : SearchSettled s := { hi with }

theorem Inv.recordOfFamily {s : State} (hi : Inv s) : RecordOfFamily s := { hi with }

theorem inv_of_parts {s : State} (hs : SearchSettled s) (hr : RecordOfFamily s)
    (he : s.inflight = some .enumerate → s.nrec.toNat < Config.maxDev ∧ s.ldf = false) : Inv s :=
  { hs, hr with enum_goes_on := he }

theorem RecordOfFamily.congr {s t : State} (hr : RecordOfFamily s) (hn : t.nrec = s.nrec)
    (hrec : t.record = s.record) : RecordOfFamily t := by
  constructor
  · rw [hn]; exact hr.nrec_range
  · simp only [hn, hrec]; exact hr.family_recorded

theorem SearchSettled.congr {s t : State} (hs : SearchSettled s) (hlcp : t.lcp = s.lcp) (hldf : t.ldf = s.ldf)
    (hsst : t.sst = s.sst) (hline : t.drv = false) : SearchSettled t := by
  constructor <;> simp only [hlcp, hldf, hsst, hline]
  · exact hs.lcp_range
  · exact hs.not_searching
  · exact hs.search_cleared
  · exact hs.found_flag

/-- The invariant reads neither `ROM` nor `CRCV` nor the environment's fields. -/
theorem Inv.congr {s t : State} (hi : Inv s) (hlcp : t.lcp = s.lcp) (hldf : t.ldf = s.ldf) (hsst : t.sst = s.sst)
    (hn : t.nrec = s.nrec) (hrec : t.record = s.record) (hline : t.drv = false)
    (he : t.inflight = some .enumerate → s.inflight = some .enumerate) : Inv t := by
  refine inv_of_parts (hi.settled.congr hlcp hldf hsst hline) (hi.recordOfFamily.congr hn hrec) ?_
  rw [hn, hldf]
  exact hi.enum_goes_on ∘ he

theorem Inv.of_sameSearch {s t : State} (hi : Inv s) (h : SameSearch s t) : Inv t :=
  hi.congr h.lcp h.ldf h.sst h.nrec h.record (h.line hi.line_released) h.noEnum

/-- A command that has ended needs no room in the record. -/
theorem inv_finish {s : State} (hs : SearchSettled s) (hr : RecordOfFamily s) (c : ResultCode) : Inv (s.finish c) :=
  inv_of_parts { hs with } { hr with } nofun

theorem settled_clearSearch {s : State} (hline : s.drv = false) : SearchSettled s.clearSearch := by
  constructor <;> simp [hline]

theorem settled_abortSearch {why : SearchState} {s : State} (hline : s.drv = false) (hs : why ≠ .searching)
    (hf : why ≠ .deviceFound) : SearchSettled (s.abortSearch why) := by
  constructor <;> simp [hline, hs, hf]

/-- `LDF` after a complete pass says that `LCP` is 0, because `lastZero` fits in seven bits (R29, R167). -/
theorem settled_completePass {lastZero : Nat} {s : State} (hline : s.drv = false) (hl : lastZero ≤ 64) :
    SearchSettled (completePass lastZero s) := by
  have hlcp : (BitVec.ofNat 7 lastZero).toNat = lastZero := by simp; omega
  constructor <;> simp only [completePass]
  · omega
  · exact hline
  · decide
  · simp
  · intro _
    change decide (lastZero = 0) = decide (BitVec.ofNat 7 lastZero = 0)
    simp only [← BitVec.toNat_inj, hlcp]
    rfl

/-- However a pass ends, it leaves the search state settled. -/
theorem settled_searchPass (s : State) : SearchSettled (searchPass s).2 := by
  obtain ⟨-, h⟩ | ⟨-, -, h⟩ | ⟨k, -, -, -, -, h⟩ := searchPass_cases s <;> rw [h]
  · exact settled_abortSearch rfl (by decide) (by decide)
  · exact settled_completePass rfl (passLast_le s 64)
  · exact settled_abortSearch rfl (by decide) (by decide)

theorem settled_recordFound {s : State} (hs : SearchSettled s) : SearchSettled (recordFound s) := by
  obtain h | ⟨-, es, h⟩ := recordFound_cases s <;> rw [h]
  · exact hs
  · exact hs.congr rfl rfl rfl rfl

/-- With room in the record the new entry is the last one, and it is of the family (R216). -/
theorem recordOfFamily_recordFound {s : State} (hr : RecordOfFamily s) (hroom : s.nrec.toNat < Config.maxDev) :
    RecordOfFamily (recordFound s) := by
  obtain h | ⟨hfam, es, h⟩ := recordFound_cases s <;> rw [h]
  · exact hr
  · have hmax : Config.maxDev = 3 := rfl
    have hsucc : (s.nrec + 1).toNat = s.nrec.toNat + 1 := by
      rw [BitVec.toNat_add]; simp; omega
    refine ⟨by simp only [State.bus_nrec, hsucc]; omega, fun n hn hlt => ?_⟩
    simp only [State.bus_nrec, hsucc] at hlt
    change ((s.record.setIfInBounds s.nrec.toNat s.rom)[n]'hn)[7] = Config.family
    by_cases he : n = s.nrec.toNat
    · subst he; simpa using hfam
    · rw [Vector.getElem_setIfInBounds_ne hn (Ne.symm he)]
      exact hr.family_recorded n hn (by omega)

/-- An enumeration stays in flight exactly while it has room and is not at its end (R215, R217). -/
theorem enumMore_iff (s : State) : enumMore s = true ↔ s.nrec.toNat < Config.maxDev ∧ s.ldf = false := by
  simp [enumMore]

theorem inv_enumNext {s : State} (hs : SearchSettled s) (hr : RecordOfFamily s) : Inv (enumNext s) := by
  unfold enumNext
  split
  case isTrue hmore => exact inv_of_parts { hs with } { hr with } fun _ => (enumMore_iff s).mp hmore
  case isFalse => exact inv_finish hs hr .ok

theorem inv_enumStep {s : State} (hs : SearchSettled s) (hr : RecordOfFamily s) : Inv (enumStep s) := by
  have hpass := settled_searchPass s
  have hframe := sameRecord_searchPass s
  have hrec := hr.congr hframe.nrec hframe.record
  obtain ⟨-, h⟩ | ⟨-, c, h⟩ | ⟨hmore, h⟩ := enumStep_cases s <;> rw [h]
  · exact inv_finish hs hr .ok
  · exact inv_finish hpass hrec c
  · have hroom : (searchPass s).2.nrec.toNat < Config.maxDev := hframe.nrec ▸ ((enumMore_iff s).mp hmore).1
    exact inv_enumNext (settled_recordFound hpass) (recordOfFamily_recordFound hrec hroom)

theorem inv_searchCommand {s : State} (hi : Inv s) : Inv (searchCommand s) := by
  have hframe := sameRecord_searchPass s
  unfold searchCommand
  split
  · exact hi.of_sameSearch (sameSearch_reject s)
  · exact inv_finish (settled_searchPass s) (hi.recordOfFamily.congr hframe.nrec hframe.record) _

/-- Every command keeps the invariant. -/
theorem inv_exec {i : Instr} {s t : State} (hi : Inv s) (hexec : exec i s = .next t) : Inv t := by
  obtain h | ⟨-, rfl⟩ | ⟨-, rfl⟩ | ⟨-, rfl⟩ | ⟨-, id, rfl⟩ := exec_cases hexec
  · exact hi.of_sameSearch h
  · exact inv_finish (settled_clearSearch hi.line_released) (hi.recordOfFamily.congr rfl rfl) .ok
  · exact inv_searchCommand hi
  · have hempty : RecordOfFamily (State.clearSearch { s with nrec := 0 }) := by constructor <;> simp
    exact inv_enumStep (settled_clearSearch hi.line_released) hempty
  · exact hi.congr rfl rfl rfl rfl rfl hi.line_released nofun

/-- So does the next iteration of a command in flight. -/
theorem inv_proceed {s : State} (hi : Inv s) : Inv (proceed s) := by
  unfold proceed
  split
  · next f _ =>
    cases f with
    | poll id => exact hi.of_sameSearch (sameSearch_pollStep id s)
    | enumerate => exact inv_enumStep hi.settled hi.recordOfFamily
  · exact hi

theorem inv_acceptWord {w : CmdWord} {s t : State} (hi : Inv s) (h : acceptWord w s = .next t) : Inv t := by
  unfold acceptWord at h
  split at h
  · exact inv_exec hi h
  · obtain rfl := Host.Outcome.next.inj h
    exact hi.of_sameSearch (sameSearch_reject s)

theorem inv_hostWrite {n : Byte} {d : CmdWord} {s t : State} (hi : Inv s) (h : hostWrite n d s = .next t) : Inv t := by
  unfold hostWrite at h
  split at h
  · exact inv_acceptWord hi h
  · obtain rfl := Host.Outcome.next.inj h
    rw [State.writeReg_eq]
    exact hi.congr rfl rfl rfl rfl rfl hi.line_released id

theorem inv_hwReset (s : State) : Inv s.hwReset := by
  constructor <;> simp [State.reset]

/-- What one step can do: the command in flight goes on, the environment sets `IMASK` or resets the controller, or an
idle controller takes the host's access. -/
theorem step_cases {s t : State} (h : step s = .next t) :
    t = proceed s ∨
    (∃ rest, s.host = .quiet :: rest ∧ t = proceed { s with host := rest }) ∨
    (∃ b rest, s.host = .irqMask b :: rest ∧ t = { s with host := rest, imask := b }) ∨
    (resetNext s ∧ ∃ u, t = State.hwReset u) ∨
    (∃ n rest, s.host = .read n :: rest ∧ s.busy = false ∧ t = hostRead n { s with host := rest }) ∨
    ∃ n d rest, s.host = .write n d :: rest ∧ s.busy = false ∧ hostWrite n d { s with host := rest } = .next t := by
  cases hh : s.host with
  | nil =>
    rw [step_no_move hh] at h
    exact .inl (Host.Outcome.next.inj h).symm
  | cons m rest =>
    cases m with
    | quiet =>
      rw [step_quiet hh] at h
      exact .inr (.inl ⟨rest, rfl, (Host.Outcome.next.inj h).symm⟩)
    | irqMask b =>
      rw [step_irqMask hh] at h
      exact .inr (.inr (.inl ⟨b, rest, rfl, (Host.Outcome.next.inj h).symm⟩))
    | reset =>
      rw [step_reset hh] at h
      exact .inr (.inr (.inr (.inl ⟨⟨_, rest, hh, .inl rfl⟩, _, (Host.Outcome.next.inj h).symm⟩)))
    | resetAfter slots =>
      have hreset : resetNext s := ⟨_, rest, hh, .inr ⟨slots, rfl⟩⟩
      simp only [step, cycle, hh] at h
      split at h
      · exact .inr (.inr (.inr (.inl ⟨hreset, _, (Host.Outcome.next.inj h).symm⟩)))
      · nomatch h
      · nomatch h
    | read n =>
      cases hb : s.busy with
      | true =>
        rw [step_busy_waits hb (.inr ⟨n, rest, hh⟩)] at h
        exact .inl (Host.Outcome.next.inj h).symm
      | false =>
        rw [step_read_idle hh hb] at h
        exact .inr (.inr (.inr (.inr (.inl ⟨n, rest, rfl, rfl, (Host.Outcome.next.inj h).symm⟩))))
    | write n d =>
      cases hb : s.busy with
      | true =>
        rw [step_busy_waits hb (.inl ⟨n, d, rest, hh⟩)] at h
        exact .inl (Host.Outcome.next.inj h).symm
      | false =>
        rw [step_write_idle hh hb] at h
        exact .inr (.inr (.inr (.inr (.inr ⟨n, d, rest, rfl, rfl, h⟩))))

/-- Settles O50: by `step_cases`; taking a move off the queue touches nothing the invariant reads. -/
theorem stepKeepsInv : Obligations.StepKeepsInv := by
  intro s t hi hstep
  have hmoved (rest : List HostMove) : Inv { s with host := rest } :=
    hi.congr rfl rfl rfl rfl rfl hi.line_released id
  obtain rfl | ⟨rest, -, rfl⟩ | ⟨b, rest, -, rfl⟩ | ⟨-, u, rfl⟩ | ⟨n, rest, -, -, rfl⟩ | ⟨n, d, rest, -, -, h⟩ :=
    step_cases hstep
  · exact inv_proceed hi
  · exact inv_proceed (hmoved rest)
  · exact hi.congr rfl rfl rfl rfl rfl hi.line_released id
  · exact inv_hwReset u
  · exact hi.congr rfl rfl rfl rfl rfl hi.line_released id
  · exact inv_hostWrite (hmoved rest) h

end Sys2Proof.Machine
end

section
/-! The memory family: where a slot samples, and what every command does with the history and the environment's
answers. One pass over the commands (`runAlike_exec`) says both that the history only grows and that nothing is read of
the environment but its coming answers. -/

namespace Sys2Proof.Machine

/-! ## Where a slot samples (R78, R121, R124, R127) -/

theorem resetSlot_sample {n : Nat} (h : resetSlot[n]? = some .sample) : n = 6 := by
  have hone : ∀ m < 9, resetSlot[m]? = some .sample → m = 6 := by decide
  exact hone n (List.getElem?_eq_some_iff.mp h).1 h

theorem readSlot_sample {n : Nat} (h : readSlot[n]? = some .sample) : n = 5 := by
  have hone : ∀ m < 8, readSlot[m]? = some .sample → m = 5 := by decide
  exact hone n (List.getElem?_eq_some_iff.mp h).1 h

theorem writeSlot_no_sample (b : Bool) (n : Nat) : (writeSlot b)[n]? ≠ some .sample := by
  have hnone : .sample ∉ writeSlot b := by revert b; decide
  exact fun h => hnone (List.mem_of_getElem? h)

/-- A sample taken where the slot so far has but masked the interruptions and released the line is the environment's
next answer (R61). -/
theorem sample_of_released {acts : List LineAction} {n : Nat} {s : State} (hn : acts[n]? = some .sample)
    (hst : (runActions (acts.take n) s).st = { s with imask := true, drv := false }) :
    (runActions (acts.take n) s).st.drv = false ∧ (runActions (acts.take (n + 1)) s).level = s.level 0 := by
  have hrun : runActions (acts.take (n + 1)) s = LineAction.run .sample (runActions (acts.take n) s) := by
    simp [runActions, List.take_add_one, hn]
  have hlevel : State.level { s with imask := true, drv := false } 0 = s.level 0 := State.level_congr rfl rfl 0
  rw [hrun]
  simp only [LineAction.run, takeLevel_fst, hst, hlevel, lineLevel, Bool.not_false, Bool.true_and, and_self]

/-- Settles O18: the two sampling slots each sample once, after their release; a write slot never samples. -/
theorem lineReleasedWhenSampled : Obligations.LineReleasedWhenSampled := by
  intro acts hacts s n hn
  simp only [List.mem_cons, List.not_mem_nil, or_false] at hacts
  obtain rfl | rfl | rfl | rfl := hacts
  · obtain rfl := resetSlot_sample hn
    exact sample_of_released hn rfl
  · obtain rfl := readSlot_sample hn
    exact sample_of_released hn rfl
  · exact absurd hn (writeSlot_no_sample false n)
  · exact absurd hn (writeSlot_no_sample true n)

/-! ## States that hold the same answers (R74) -/

/-- The same registers, history and queues of the host, and the same coming answers, held in another way. -/
def SameAnswers (s s' : State) : Prop :=
  ∃ samples taken, s' = { s with samples := samples, freeTaken := taken } ∧ ∀ k, s.level k = s'.level k

/-- What is shown of every operation: run from two states with the same answers, the first of them `s`, it reaches
states `t` and `t'` with the same answers, and the history of `s` has grown. -/
structure RunAlike (s t t' : State) : Prop where
  grows : s.history <+: t.history
  same : SameAnswers t t'

/-- The update neither reads nor writes the history and the environment's answers: it can be made before or after any
change of theirs. -/
def UpdatesRegisters (f : State → State) : Prop :=
  ∀ s history samples taken,
    f { s with history := history, samples := samples, freeTaken := taken } =
      { f s with history := history, samples := samples, freeTaken := taken }

section
variable {s s' : State}

theorem sameAnswers_refl (s : State) : SameAnswers s s := ⟨s.samples, s.freeTaken, rfl, fun _ => rfl⟩

theorem SameAnswers.level (h : SameAnswers s s') (k : Nat) : s'.level k = s.level k := by
  obtain ⟨_, _, _, hlevel⟩ := h
  exact (hlevel k).symm

theorem SameAnswers.levels (h : SameAnswers s s') (k n : Nat) : s'.levels k n = s.levels k n := by
  simp [State.levels, h.level]

theorem SameAnswers.rom (h : SameAnswers s s') : s'.rom = s.rom := by
  obtain ⟨_, _, rfl, _⟩ := h
  rfl

theorem SameAnswers.lcp (h : SameAnswers s s') : s'.lcp = s.lcp := by
  obtain ⟨_, _, rfl, _⟩ := h
  rfl

theorem SameAnswers.ldf (h : SameAnswers s s') : s'.ldf = s.ldf := by
  obtain ⟨_, _, rfl, _⟩ := h
  rfl

theorem SameAnswers.nrec (h : SameAnswers s s') : s'.nrec = s.nrec := by
  obtain ⟨_, _, rfl, _⟩ := h
  rfl

theorem SameAnswers.selected (h : SameAnswers s s') (sel : Selector) : s'.selected sel = s.selected sel := by
  obtain ⟨_, _, rfl, _⟩ := h
  cases sel <;> rfl

theorem SameAnswers.bus (h : SameAnswers s s') (es : List Event) : SameAnswers (s.bus es) (s'.bus es) := by
  have hlevel (k : Nat) : (s.bus es).level k = (s'.bus es).level k := by simp only [State.level_bus, h.level]
  obtain ⟨_, _, rfl, _⟩ := h
  exact ⟨_, _, rfl, hlevel⟩

/-- A register update leaves the three fields it does not touch. -/
theorem UpdatesRegisters.frame {f : State → State} (hf : UpdatesRegisters f) (s : State) :
    (f s).history = s.history ∧ (f s).samples = s.samples ∧ (f s).freeTaken = s.freeTaken := by
  have hs : f s = { f s with history := s.history, samples := s.samples, freeTaken := s.freeTaken } :=
    hf s s.history s.samples s.freeTaken
  exact ⟨by rw [hs], by rw [hs], by rw [hs]⟩

theorem UpdatesRegisters.level {f : State → State} (hf : UpdatesRegisters f) (s : State) (k : Nat) :
    (f s).level k = s.level k := by
  obtain ⟨-, hsamples, htaken⟩ := hf.frame s
  exact State.level_congr hsamples htaken k

theorem SameAnswers.update (h : SameAnswers s s') {f : State → State} (hf : UpdatesRegisters f) :
    SameAnswers (f s) (f s') := by
  have hlevel (k : Nat) : (f s).level k = (f s').level k := by rw [hf.level, hf.level, h.level]
  obtain ⟨samples, taken, rfl, _⟩ := h
  obtain ⟨hhistory, -, -⟩ := hf.frame s
  refine ⟨samples, taken, ?_, hlevel⟩
  rw [hf s s.history samples taken, ← hhistory]

/-! ## The rules that carry `RunAlike` through an operation -/

theorem SameAnswers.start (h : SameAnswers s s') : RunAlike s s s' := ⟨List.prefix_rfl, h⟩

variable {t t' : State}

theorem RunAlike.next (h : RunAlike s t t') {f : State → State}
    (hf : ∀ {u u'}, SameAnswers u u' → RunAlike u (f u) (f u')) : RunAlike s (f t) (f t') where
  grows := h.grows.trans (hf h.same).grows
  same := (hf h.same).same

theorem RunAlike.bus (h : RunAlike s t t') (es : List Event) : RunAlike s (t.bus es) (t'.bus es) where
  grows := h.grows.trans (List.prefix_append t.history es)
  same := h.same.bus es

theorem RunAlike.update (h : RunAlike s t t') (f : State → State)
    (hf : UpdatesRegisters f := by exact fun _ _ _ _ => rfl) : RunAlike s (f t) (f t') where
  grows := (hf.frame t).1 ▸ h.grows
  same := h.same.update hf

theorem RunAlike.finish (h : RunAlike s t t') (c : ResultCode) : RunAlike s (t.finish c) (t'.finish c) :=
  h.update (State.finish c)

end

/-! ## The commands of the slots and bytes (R122 to R144) -/

section
variable {s s' : State} (h : SameAnswers s s')
include h

theorem runAlike_resetCommand : RunAlike s (resetCommand s) (resetCommand s') := by
  have hrun (p : Bool) : RunAlike s { s.bus [.rst p] with pres := p } { s'.bus [.rst p] with pres := p } :=
    (h.start.bus [.rst p]).update fun u => { u with pres := p }
  simp only [resetCommand, busReset_eq, h.level]
  split
  · exact (hrun _).finish .ok
  · exact (hrun _).finish .busAbsent

theorem runAlike_busRead : RunAlike s (busRead s).2 (busRead s').2 := by
  simp only [busRead_eq, h.level]
  exact h.start.bus _

theorem runAlike_busWrite (b : Bool) : RunAlike s (busWrite b s) (busWrite b s') := by
  simp only [busWrite_eq]
  exact h.start.bus _

theorem runAlike_writeByte (v : Byte) : RunAlike s (writeByte v s) (writeByte v s') := by
  simp only [writeByte_eq]
  exact h.start.bus _

theorem runAlike_owrb :
    RunAlike s (State.done { (busRead s).2 with bit := (busRead s).1 })
      (State.done { (busRead s').2 with bit := (busRead s').1 }) := by
  simp only [busRead_eq, h.level]
  exact ((h.start.bus _).update fun u => { u with bit := s.level 0 }).finish .ok

theorem runAlike_owrby :
    RunAlike s (State.done { (readByte s).2 with res := (readByte s).1 })
      (State.done { (readByte s').2 with res := (readByte s').1 }) := by
  simp only [readByte_eq, h.levels]
  exact ((h.start.bus _).update fun u => { u with res := byteOfBits (s.levels 0 8) }).finish .ok

/-! ## The commands of a device session (R153, R190 to R213) -/

/-- A selector picks the same identifier in both, or rejects the word in both. -/
theorem runAlike_withSelected (sel : Selector) {body : Identifier → State → State}
    (hbody : ∀ id, RunAlike s (body id s) (body id s')) :
    RunAlike s (withSelected sel body s) (withSelected sel body s') := by
  unfold withSelected
  rw [h.selected]
  cases s.selected sel with
  | none => exact h.start.update State.reject
  | some id => exact hbody id

theorem runAlike_crcCommand (id : Identifier) : RunAlike s (crcCommand id s) (crcCommand id s') :=
  h.start.update (crcCommand id)

theorem runAlike_selectCommand (id : Identifier) : RunAlike s (selectCommand id s) (selectCommand id s') := by
  have hrun (es : List Event) (p : Bool) :
      RunAlike s { s.bus es with pres := p } { s'.bus es with pres := p } :=
    (h.start.bus es).update fun u => { u with pres := p }
  simp only [selectCommand, selectDevice_eq, h.level]
  cases s.level 0
  · exact (hrun (selectedEvents id) true).finish .ok
  · exact (hrun [.rst false] false).finish .busAbsent

theorem runAlike_configure (id : Identifier) : RunAlike s (configure id s).2 (configure id s').2 := by
  simp only [configure_eq, h.level]
  cases s.level 0 <;> exact h.start.bus _

theorem runAlike_configCommand (id : Identifier) : RunAlike s (configCommand id s) (configCommand id s') := by
  simp only [configCommand, configure_eq, h.level]
  cases s.level 0
  · exact (h.start.bus (configuredEvents id)).finish .ok
  · exact (h.start.bus [.rst false]).finish .busAbsent

theorem runAlike_readSession (id : Identifier) : RunAlike s (readSession id s) (readSession id s') := by
  simp only [readSession_eq, readAt, byteAt, h.level, h.levels]
  split
  · exact (h.start.bus _).finish .busAbsent
  · exact ((h.start.bus _).update fun u =>
      { u with sp0 := byteOfBits (s.levels 1 8), sp1 := byteOfBits (s.levels 9 8) }).finish .ok

theorem runAlike_pollStep (id : Identifier) : RunAlike s (pollStep id s) (pollStep id s') := by
  simp only [pollStep_eq, h.level]
  split
  · exact (h.start.bus [.r true]).next fun hu => runAlike_readSession hu id
  · exact (h.start.bus [.r false]).update fun u => { u with inflight := some (.poll id) }

theorem runAlike_convertCommand (id : Identifier) : RunAlike s (convertCommand id s) (convertCommand id s') := by
  simp only [convertCommand_eq, h.level]
  split
  · exact (h.start.bus [.rst false]).finish .busAbsent
  · exact (h.start.bus _).next fun hu => runAlike_pollStep hu id

/-! ## The search and the enumeration (R161 to R169, R215 to R219) -/

theorem SameAnswers.silentAt (c : Nat) : silentAt s' c = silentAt s c := by
  simp [Machine.silentAt, pairA, pairB, h.level]

theorem SameAnswers.conflictAt (c : Nat) : conflictAt s' c = conflictAt s c := by
  simp [Machine.conflictAt, pairA, pairB, h.level]

theorem SameAnswers.directionAt (c : Nat) : directionAt s' c = directionAt s c := by
  simp [Machine.directionAt, pairA, h.conflictAt, h.level, h.rom, h.lcp]

theorem SameAnswers.passEvents (n : Nat) : passEvents s' n = passEvents s n := by
  have htriplet (c : Nat) : tripletAt s' c = tripletAt s c := by
    simp [tripletAt, pairA, pairB, h.level, h.directionAt]
  simp [Machine.passEvents, funext htriplet]

theorem SameAnswers.passRom (n : Nat) : passRom s' n = passRom s n := by
  simp [Machine.passRom, h.directionAt, h.rom]

theorem SameAnswers.passLast (n : Nat) : passLast s' n = passLast s n := by
  simp [Machine.passLast, h.conflictAt, h.directionAt]

theorem runAlike_passState (n : Nat) : RunAlike s (passState s n) (passState s' n) := by
  simp only [passState, h.passEvents, h.passRom]
  exact (h.start.update fun u => { u with rom := passRom s n }).bus _

/-- The same pass, with the same result code: all it reads are the answers, `LCP` and the buffer. -/
theorem runAlike_searchPass :
    (searchPass s').1 = (searchPass s).1 ∧ RunAlike s (searchPass s).2 (searchPass s').2 := by
  obtain ⟨hp, hpass⟩ | ⟨hp, hs, hpass⟩ | ⟨k, hk, hp, hs, hsil, hpass⟩ := searchPass_cases s <;> rw [hpass]
  · rw [searchPass_absent s' ((h.level 0).trans hp)]
    exact ⟨rfl, (h.start.bus _).update (State.abortSearch .busError)⟩
  · rw [searchPass_complete s' ((h.level 0).trans hp) fun c h1 h2 => (h.silentAt c).trans (hs c h1 h2),
      h.passRom, h.passLast]
    exact ⟨rfl, (runAlike_passState h 64).update (completePass (passLast s 64))⟩
  · rw [searchPass_silent s' ((h.level 0).trans hp) hk (fun c h1 h2 => (h.silentAt c).trans (hs c h1 h2))
      ((h.silentAt (k + 1)).trans hsil)]
    exact ⟨rfl, ((runAlike_passState h k).bus _).update (State.abortSearch .noDevice)⟩

theorem runAlike_searchCommand : RunAlike s (searchCommand s) (searchCommand s') := by
  obtain ⟨hcode, hrun⟩ := runAlike_searchPass h
  simp only [searchCommand, h.ldf, hcode]
  split
  · exact h.start.update State.reject
  · exact hrun.finish _

theorem runAlike_recordFound : RunAlike s (recordFound s) (recordFound s') := by
  simp only [recordFound, h.rom, h.nrec]
  split
  · have hrec := h.start.update fun u =>
      { u with record := u.record.setIfInBounds s.nrec.toNat s.rom, nrec := s.nrec + 1 }
    simpa only [h.rom] using hrec.next fun hu => runAlike_configure hu s.rom
  · exact h.start

theorem SameAnswers.enumMore : enumMore s' = enumMore s := by
  simp [Machine.enumMore, h.nrec, h.ldf]

theorem runAlike_enumNext : RunAlike s (enumNext s) (enumNext s') := by
  simp only [enumNext, h.enumMore]
  split
  · exact h.start.update fun u => { u with inflight := some .enumerate }
  · exact h.start.finish .ok

theorem runAlike_enumStep : RunAlike s (enumStep s) (enumStep s') := by
  obtain ⟨hcode, hrun⟩ := runAlike_searchPass h
  have hnext : RunAlike s (enumNext (recordFound (searchPass s).2)) (enumNext (recordFound (searchPass s').2)) :=
    (hrun.next runAlike_recordFound).next runAlike_enumNext
  simp only [enumStep, h.enumMore]
  split
  case isTrue =>
    generalize searchPass s = p, searchPass s' = p' at hcode hrun hnext ⊢
    obtain ⟨c, t⟩ := p
    obtain ⟨c', t'⟩ := p'
    obtain rfl : c' = c := hcode
    cases c' with
    | busAbsent => exact hrun.finish .busAbsent
    | searchAnomaly => exact hrun.finish .searchAnomaly
    | ok => exact hnext
    | crcMismatch => exact hnext
    | illegal => exact hnext
  case isFalse => exact h.start.finish .ok

/-! ## Every command -/

/-- What an accepted command can do, whatever the environment: answer a next state, from the coming answers alone, with
its slots appended to the history. -/
theorem runAlike_exec (i : Instr) : ∃ t t', exec i s = .next t ∧ exec i s' = .next t' ∧ RunAlike s t t' := by
  cases i <;> refine ⟨_, _, rfl, rfl, ?_⟩
  case owrst => exact runAlike_resetCommand h
  case owrb => exact runAlike_owrb h
  case owwb b => exact (runAlike_busWrite h b).finish .ok
  case owrby => exact runAlike_owrby h
  case owwby v => exact (runAlike_writeByte h v).finish .ok
  case crc8Rom => exact runAlike_withSelected h .rom (runAlike_crcCommand h)
  case crc8Rec idx => exact runAlike_withSelected h (.entry idx) (runAlike_crcCommand h)
  case srchrst => exact (h.start.update State.clearSearch).finish .ok
  case srchnxt => exact runAlike_searchCommand h
  case selectRom => exact runAlike_withSelected h .rom (runAlike_selectCommand h)
  case selectRec idx => exact runAlike_withSelected h (.entry idx) (runAlike_selectCommand h)
  case convrdRom => exact runAlike_withSelected h .rom (runAlike_convertCommand h)
  case convrdRec idx => exact runAlike_withSelected h (.entry idx) (runAlike_convertCommand h)
  case tdec => exact (h.start.update fun u => { u with temp := decodeTemp u.sp0 u.sp1 }).finish .ok
  case cfgdevRom => exact runAlike_withSelected h .rom (runAlike_configCommand h)
  case cfgdevRec idx => exact runAlike_withSelected h (.entry idx) (runAlike_configCommand h)
  case enumerate =>
    exact (h.start.update fun u => State.clearSearch { u with nrec := 0 }).next runAlike_enumStep

end

/-- Settles O52: the premise is `SameAnswers`, and `runAlike_exec` carries it to the states left. -/
theorem answersAloneDecide : Obligations.AnswersAloneDecide := by
  intro i s samples taken hlevel
  obtain ⟨t, t', hexec, hexec', hrun⟩ := runAlike_exec ⟨samples, taken, rfl, hlevel⟩ i
  obtain ⟨samples', taken', rfl, hlevel'⟩ := hrun.same
  exact ⟨t, _, hexec, hexec', rfl, hlevel'⟩

/-! ## The history under a step (R62, R77) -/

theorem history_exec {i : Instr} {s t : State} (hexec : exec i s = .next t) : s.history <+: t.history := by
  obtain ⟨u, _, hu, -, hrun⟩ := runAlike_exec (sameAnswers_refl s) i
  obtain rfl := Host.Outcome.next.inj (hexec.symm.trans hu)
  exact hrun.grows

theorem history_proceed (s : State) : s.history <+: (proceed s).history := by
  unfold proceed
  split
  · next f _ =>
    cases f with
    | poll id => exact (runAlike_pollStep (sameAnswers_refl s) id).grows
    | enumerate => exact (runAlike_enumStep (sameAnswers_refl s)).grows
  · exact List.prefix_rfl

theorem history_acceptWord {w : CmdWord} {s t : State} (h : acceptWord w s = .next t) :
    s.history <+: t.history := by
  unfold acceptWord at h
  split at h
  · exact history_exec h
  · obtain rfl := Host.Outcome.next.inj h
    exact List.prefix_rfl

theorem history_hostWrite {n : Byte} {d : CmdWord} {s t : State} (h : hostWrite n d s = .next t) :
    s.history <+: t.history := by
  unfold hostWrite at h
  split at h
  · exact history_acceptWord h
  · obtain rfl := Host.Outcome.next.inj h
    rw [State.writeReg_eq]

/-- A reset keeps the history, and one inside a step keeps the slots before it, too (R260, V91). -/
theorem history_resetNext {s t : State} (hreset : resetNext s) (h : step s = .next t) : s.history <+: t.history := by
  obtain ⟨m, rest, hhost, rfl | ⟨slots, rfl⟩⟩ := hreset
  · rw [step_reset hhost] at h
    obtain rfl := Host.Outcome.next.inj h
    exact List.prefix_rfl
  · simp only [step, cycle, hhost] at h
    split at h
    · obtain rfl := Host.Outcome.next.inj h
      exact List.prefix_append _ _
    · nomatch h
    · nomatch h

/-- Settles O51: by `step_cases`; a command's slots are appended, and no other move writes the history. -/
theorem historyOnlyGrows : Obligations.HistoryOnlyGrows := by
  intro s t hstep
  obtain rfl | ⟨rest, -, rfl⟩ | ⟨b, rest, -, rfl⟩ | ⟨hreset, -⟩ | ⟨n, rest, -, -, rfl⟩ | ⟨n, d, rest, -, -, h⟩ :=
    step_cases hstep
  · exact history_proceed s
  · exact history_proceed { s with host := rest }
  · exact List.prefix_rfl
  · exact history_resetNext hreset hstep
  · exact List.prefix_rfl
  · exact history_hostWrite (s := { s with host := rest }) h

end Sys2Proof.Machine
end

section
/-! The encoding family: the decoder inverts the encoder field by field, the opcode table's rows are its forms, and
an identifier's bits travel in wire order. A word is its opcode field over its operand field. -/

namespace Sys2Proof.Machine

/-! ## The two fields of a word (R90, R91) -/

@[simp] theorem opcodeField_append (op x : Byte) : opcodeField (op ++ x) = op :=
  BitVec.extractLsb'_append_eq_left

@[simp] theorem operandField_append (op x : Byte) : operandField (op ++ x) = x :=
  BitVec.extractLsb'_append_eq_right

theorem opcodeField_append_operandField (w : CmdWord) : opcodeField w ++ operandField w = w :=
  (BitVec.extractLsb'_append_extractLsb'_eq_extractLsb' rfl).trans BitVec.extractLsb'_eq_self

theorem opcodeField_encode (i : Instr) : opcodeField (encode i) = i.opcode := opcodeField_append ..

theorem operandField_encode (i : Instr) : operandField (encode i) = i.operand := operandField_append ..

theorem encode_eq_iff (i : Instr) (w : CmdWord) :
    encode i = w ↔ opcodeField w = i.opcode ∧ operandField w = i.operand := by
  constructor
  · rintro rfl
    exact ⟨opcodeField_encode i, operandField_encode i⟩
  · rintro ⟨hop, hx⟩
    rw [← opcodeField_append_operandField w, hop, hx, encode]

/-! ## The operand formats (R93, R94, R96, R97) -/

/-- The operand of format B, read off its fields. -/
theorem eq_bitOperand_iff (x : Byte) (b : Bool) :
    x = (if b then 0x01 else 0x00) ↔ x.extractLsb' 1 7 = 0#7 ∧ x.getLsbD 0 = b := by
  revert x b; decide +kernel

/-- The operand of a `ROM` form, read off its fields. -/
theorem eq_romOperand_iff (x : Byte) : x = 0x80 ↔ x.getLsbD 7 = true ∧ x.extractLsb' 0 7 = 0 := by
  revert x; decide +kernel

theorem eq_entryOperand_extractLsb' (x : Byte) (h : x.getLsbD 7 = false) : x = entryOperand (x.extractLsb' 0 7) := by
  revert x; decide +kernel

/-- The operand of a `REC[idx]` form, read off its fields. -/
theorem eq_entryOperand_iff (x : Byte) (idx : BitVec 7) :
    x = entryOperand idx ↔ x.getLsbD 7 = false ∧ x.extractLsb' 0 7 = idx := by
  constructor
  · rintro rfl
    exact ⟨BitVec.getLsbD_append, BitVec.extractLsb'_append_eq_right⟩
  · rintro ⟨hsrc, rfl⟩
    exact eq_entryOperand_extractLsb' x hsrc

theorem formatN_eq_ok_iff (x : Byte) (i j : Instr) : formatN x i = .ok j ↔ x = 0 ∧ i = j := by
  unfold formatN
  split
  · next hx => simp only [hx, true_and, Except.ok.injEq]
  · next hx => simp only [hx, false_and, reduceCtorEq]

theorem formatB_eq_ok_iff (x : Byte) (mk : Bool → Instr) (j : Instr) :
    formatB x mk = .ok j ↔ ∃ b : Bool, x = (if b then 0x01 else 0x00) ∧ mk b = j := by
  simp only [eq_bitOperand_iff]
  unfold formatB
  split
  · next hx => simp only [hx, true_and, exists_eq_left', Except.ok.injEq]
  · next hx => simp only [hx, false_and, exists_false, reduceCtorEq]

theorem formatS_eq_ok_iff (x : Byte) (rom : Instr) (entry : BitVec 7 → Instr) (j : Instr) :
    formatS x rom entry = .ok j ↔
      (x = 0x80 ∧ rom = j) ∨ ∃ idx : BitVec 7, x = entryOperand idx ∧ entry idx = j := by
  simp only [eq_romOperand_iff, eq_entryOperand_iff, formatS]
  cases x.getLsbD 7 with
  | false => simp
  | true =>
    by_cases hidx : x.extractLsb' 0 7 = 0 <;>
      · simp only [hidx]; simp

/-! ## The decoder (R98) -/

theorem decode_encode (i : Instr) : decode (encode i) = .ok i := by
  simp only [decode, opcodeField_encode, operandField_encode]
  cases i with
  | owwb b => exact (formatB_eq_ok_iff ..).2 ⟨b, rfl, rfl⟩
  | owwby imm8 => rfl
  | crc8Rec idx | selectRec idx | convrdRec idx | cfgdevRec idx =>
    exact (formatS_eq_ok_iff ..).2 (.inr ⟨idx, rfl, rfl⟩)
  | crc8Rom | selectRom | convrdRom | cfgdevRom => exact (formatS_eq_ok_iff ..).2 (.inl ⟨rfl, rfl⟩)
  | owrst | owrb | owrby | srchrst | srchnxt | tdec | enumerate => exact (formatN_eq_ok_iff ..).2 ⟨rfl, rfl⟩

theorem encode_of_decode {w : CmdWord} {i : Instr} (h : decode w = .ok i) : encode i = w := by
  rw [encode_eq_iff]
  unfold decode at h
  split at h
  case h_1 hop | h_2 hop | h_4 hop | h_7 hop | h_8 hop | h_11 hop | h_13 hop =>
    obtain ⟨hx, rfl⟩ := (formatN_eq_ok_iff ..).1 h
    exact ⟨BitVec.eq_of_toNat_eq hop, hx⟩
  case h_3 hop =>
    obtain ⟨b, hx, rfl⟩ := (formatB_eq_ok_iff ..).1 h
    exact ⟨BitVec.eq_of_toNat_eq hop, hx⟩
  case h_5 hop =>
    obtain rfl := Except.ok.inj h
    exact ⟨BitVec.eq_of_toNat_eq hop, rfl⟩
  case h_6 hop | h_9 hop | h_10 hop | h_12 hop =>
    obtain ⟨hx, rfl⟩ | ⟨idx, hx, rfl⟩ := (formatS_eq_ok_iff ..).1 h
    · exact ⟨BitVec.eq_of_toNat_eq hop, hx⟩
    · exact ⟨BitVec.eq_of_toNat_eq hop, hx⟩
  case h_14 => nomatch h

theorem encode_injective : Function.Injective encode := fun i j h =>
  Except.ok.inj ((decode_encode i).symm.trans (h ▸ decode_encode j))

/-- Settles O1: the encoder writes the two fields the decoder reads. -/
theorem decodeEncodeAgree : Obligations.DecodeEncodeAgree :=
  ⟨decode_encode, fun _ _ => encode_of_decode⟩

/-! ## The rows of the opcode table (R112) -/

theorem covers_iff (r : OpcodeRow) (w : CmdWord) : r.covers w = true ↔ w &&& r.mask = r.pattern :=
  decide_eq_true_iff

/-- Every command's word has the form of its row. -/
theorem covers_encode (i : Instr) : i.row.covers (encode i) = true := by
  cases i with
  | owrst => exact Laws.TableRow.owrst
  | owrb => exact Laws.TableRow.owrb
  | owwb b => exact Laws.TableRow.owwb b
  | owrby => exact Laws.TableRow.owrby
  | owwby imm8 => exact Laws.TableRow.owwby imm8
  | crc8Rom => exact Laws.TableRow.crc8Rom
  | crc8Rec idx => exact Laws.TableRow.crc8Rec idx
  | srchrst => exact Laws.TableRow.srchrst
  | srchnxt => exact Laws.TableRow.srchnxt
  | selectRom => exact Laws.TableRow.selectRom
  | selectRec idx => exact Laws.TableRow.selectRec idx
  | convrdRom => exact Laws.TableRow.convrdRom
  | convrdRec idx => exact Laws.TableRow.convrdRec idx
  | tdec => exact Laws.TableRow.tdec
  | cfgdevRom => exact Laws.TableRow.cfgdevRom
  | cfgdevRec idx => exact Laws.TableRow.cfgdevRec idx
  | enumerate => exact Laws.TableRow.enumerate

/-- Every row fixes the whole opcode. -/
theorem opcodeField_of_covers {w : CmdWord} {i : Instr} (h : i.row.covers w = true) :
    opcodeField w = i.opcode := by
  have hfield : opcodeField w &&& opcodeField i.row.mask = opcodeField i.row.pattern := by
    rw [← (covers_iff ..).1 h]
    exact BitVec.extractLsb'_and.symm
  have hmask : opcodeField i.row.mask = BitVec.allOnes 8 := by cases i <;> simp only [Instr.row] <;> rfl
  have hpattern : opcodeField i.row.pattern = i.opcode := by cases i <;> simp only [Instr.row] <;> rfl
  rwa [hmask, hpattern, BitVec.and_allOnes] at hfield

theorem operandField_of_covers {w : CmdWord} {i : Instr} (h : i.row.covers w = true) :
    operandField w &&& operandField i.row.mask = operandField i.row.pattern := by
  rw [← (covers_iff ..).1 h]
  exact BitVec.extractLsb'_and.symm

theorem exists_bitOperand {x : Byte} (h : x &&& 0xFE = 0) : ∃ b : Bool, x = if b then 0x01 else 0x00 := by
  revert x; decide +kernel

theorem exists_entryOperand {x : Byte} (h : x &&& 0x80 = 0) : ∃ idx, x = entryOperand idx :=
  have hsrc : x.getLsbD 7 = false := by revert x; decide +kernel
  ⟨_, eq_entryOperand_extractLsb' x hsrc⟩

/-- A word of a row is the word of a command of that row, whose operand is read off the bits the mask leaves free. -/
theorem exists_encode_of_covers {w : CmdWord} {i : Instr} (h : i.row.covers w = true) :
    ∃ j : Instr, encode j = w ∧ j.row = i.row := by
  have hop := opcodeField_of_covers h
  have hx := operandField_of_covers h
  simp only [encode_eq_iff]
  cases i <;> simp only [Instr.row] at hx
  case owwb => exact (exists_bitOperand hx).imp' Instr.owwb fun _ hb => ⟨⟨hop, hb⟩, rfl⟩
  case owwby => exact ⟨.owwby (operandField w), ⟨hop, rfl⟩, rfl⟩
  case crc8Rec => exact (exists_entryOperand hx).imp' Instr.crc8Rec fun _ hidx => ⟨⟨hop, hidx⟩, rfl⟩
  case selectRec => exact (exists_entryOperand hx).imp' Instr.selectRec fun _ hidx => ⟨⟨hop, hidx⟩, rfl⟩
  case convrdRec => exact (exists_entryOperand hx).imp' Instr.convrdRec fun _ hidx => ⟨⟨hop, hidx⟩, rfl⟩
  case cfgdevRec => exact (exists_entryOperand hx).imp' Instr.cfgdevRec fun _ hidx => ⟨⟨hop, hidx⟩, rfl⟩
  all_goals exact ⟨_, ⟨hop, (BitVec.and_allOnes ..).symm.trans hx⟩, rfl⟩

/-- Settles O2: each row covers the words of its commands and no other, and a word has one command. -/
theorem opcodeTableIsTheDecoder : Obligations.OpcodeTableIsTheDecoder := by
  refine ⟨fun w i h => ?_, fun w i h => ?_, fun w i j hi hj => ?_⟩
  · obtain rfl := encode_of_decode h
    exact covers_encode i
  · obtain ⟨j, rfl, hrow⟩ := exists_encode_of_covers h
    exact ⟨j, decode_encode j, hrow⟩
  · obtain ⟨k, rfl, hk⟩ := exists_encode_of_covers hi
    obtain ⟨l, hl, hrow⟩ := exists_encode_of_covers hj
    obtain rfl := encode_injective hl
    exact hk.symm.trans hrow

/-! ## An identifier on the wire (R65, R105) -/

theorem identifierBits_eq_map_wireBit (id : Identifier) : identifierBits id = wirePositions.map (wireBit id) := rfl

/-- Settles O39: the bits sent are the wire bits of the positions 1 to 64 in order. -/
theorem identifierTravelsInWireOrder : Obligations.IdentifierTravelsInWireOrder := by
  refine fun id => ⟨identifierBits_length id, fun c h1 h64 => ?_⟩
  have hpos : wirePositions[c - 1]? = some c := by
    rw [wirePositions, List.getElem?_range' (by omega)]; congr 1; omega
  simp [identifierBits_eq_map_wireBit, hpos]

end Sys2Proof.Machine
end

section
/-! The bit-signaling family: the whole next state of each of the three slot commands, from the slot's law in
`Laws/Bus`, and its words as the encoder's. -/

namespace Sys2Proof.Machine

/-- Settles O19: `busReset_eq` gives the slot; a low sample ends in `done`, a high one in `fail`. -/
theorem owrstEffect : Obligations.OwrstEffect := by
  refine ⟨decode_encode .owrst, fun s => ?_⟩
  change Host.Outcome.next (resetCommand s) = _
  rw [resetCommand, busReset_eq]
  cases s.level 0
  case false => rfl
  case true => rfl

/-- Settles O20: `busRead_eq` gives the slot and the sample, which `done` leaves in `BIT`. -/
theorem owrbEffect : Obligations.OwrbEffect := by
  refine ⟨decode_encode .owrb, fun s => ?_⟩
  change Host.Outcome.next (State.done { (busRead s).2 with bit := (busRead s).1 }) = _
  rw [busRead_eq]
  rfl

/-- Settles O21: `busWrite_eq` gives the slot, whose line-level case split on the bit stands there. -/
theorem owwbEffect : Obligations.OwwbEffect := by
  refine ⟨decode_encode (.owwb false), decode_encode (.owwb true), fun s b => ?_⟩
  change Host.Outcome.next (busWrite b s).done = _
  rw [busWrite_eq]
  rfl

end Sys2Proof.Machine
end

section
/-! The byte-framing family: the whole next state of the two byte commands, from the byte laws in `Laws/Bus`, and the
runs of bit commands they stand for. -/

namespace Sys2Proof.Machine

/-! ## The two byte commands (R142, R144) -/

theorem exec_owwby (v : Byte) (s : State) :
    exec (.owwby v) s = .next { s.bus ((byteBits v).map .w) with rcode := .ok, inflight := none } := by
  change Host.Outcome.next (writeByte v s).done = _
  rw [writeByte_eq]
  rfl

theorem exec_owrby (s : State) :
    exec .owrby s = .next { s.bus ((s.levels 0 8).map .r) with
      res := byteOfBits (s.levels 0 8), rcode := .ok, inflight := none } := by
  change Host.Outcome.next (State.done { (readByte s).2 with res := (readByte s).1 }) = _
  rw [readByte_eq]
  rfl

/-- Settles O22: `exec_owwby`, with the bits of the byte written out in slot order. -/
theorem owwbyEffect : Obligations.OwwbyEffect :=
  ⟨fun v => decode_encode (.owwby v), fun s v => exec_owwby v s⟩

/-! ## The bits of a byte read (R64, R143) -/

theorem testBit_foldr_bits (bs : List Bool) (i : Nat) :
    (bs.foldr (fun (b : Bool) n => 2 * n + b.toNat) 0).testBit i = bs.getD i false := by
  induction bs generalizing i with
  | nil => simp
  | cons b bs ih =>
    cases i with
    | zero => cases b <;> simp [Nat.testBit_zero]
    | succ i =>
      have hhalf (n : Nat) : (2 * n + b.toNat) / 2 = n := by have := b.toNat_lt; omega
      simp only [List.foldr_cons, Nat.testBit_succ, hhalf, ih, List.getD_cons_succ]

theorem getLsbD_byteOfBits (bs : List Bool) {i : Nat} (hi : i < 8) : (byteOfBits bs).getLsbD i = bs.getD i false := by
  rw [byteOfBits, BitVec.getLsbD_ofNat, testBit_foldr_bits]
  simp [hi]

theorem levels_getD (s : State) {n i : Nat} (hi : i < n) : (s.levels 0 n).getD i false = s.level i := by
  simp [State.levels, hi]

/-- Settles O23: `exec_owrby`; bit `i` of the byte made of the samples is sample `i`. -/
theorem owrbyEffect : Obligations.OwrbyEffect := by
  refine ⟨decode_encode .owrby, fun s => ⟨byteOfBits (s.levels 0 8), fun i hi => ?_, ?_⟩⟩
  · rw [getLsbD_byteOfBits _ hi, levels_getD s hi]
  · exact exec_owrby s

/-! ## Samples after a run of slots (R74) -/

theorem levels_bus (es : List Event) (k n : Nat) (s : State) :
    (s.bus es).levels k n = s.levels (askCount es + k) n := by
  simp only [State.levels, State.level_bus, Nat.add_assoc]

theorem levels_succ (s : State) (k n : Nat) : s.levels k (n + 1) = s.level k :: s.levels (k + 1) n := by
  simp [State.levels, List.range_succ_eq_map, Nat.add_assoc, Nat.add_comm 1]

/-! ## Reading a byte back (R76, R145) -/

theorem levels_of_echo {bs : List Bool} {s : State} (h : Echo bs s) : s.levels 0 bs.length = bs := by
  refine List.ext_getElem (by simp [State.levels]) fun k _ hk => ?_
  simp [State.levels, h k hk]

/-- Settles O24: the write slots ask for no answer, so the byte read is made of the echoed bits. -/
theorem echoRoundTrip : Obligations.EchoRoundTrip := by
  intro s t b hecho hexec
  rw [exec_owwby] at hexec
  obtain rfl := Host.Outcome.next.inj hexec
  refine ⟨_, exec_owrby _, ?_⟩
  calc byteOfBits (State.levels { s.bus ((byteBits b).map .w) with rcode := .ok, inflight := none } 0 8)
      = byteOfBits ((s.bus ((byteBits b).map .w)).levels 0 8) := rfl
    _ = byteOfBits (s.levels 0 (byteBits b).length) := by rw [levels_bus, askCount_writes, byteBits_length]
    _ = b := by rw [levels_of_echo hecho, byteOfBits_byteBits]

/-! ## Runs of bit commands (R146) -/

/-- One command word taken off the host's queue and run. -/
theorem run_commandWord {i : Instr} {rest : List HostMove} {s t : State} (n : Nat)
    (h : exec i { s with inflight := none, host := rest } = .next t) :
    Host.Core.run Sys2Proof.core (n + 1) { s with inflight := none, host := .write 0xFF (encode i) :: rest } =
      Host.Core.run Sys2Proof.core n t := by
  refine run_succ ?_
  rw [step_write_idle rfl rfl, hostWrite, if_pos rfl, acceptWord, decode_encode]
  exact h

/-- From the second command on the run starts as it goes on: idle, `RCODE` OK, the line released. -/
theorem run_owwbs (b : Bool) (bs : List Bool) (s : State) :
    Host.Core.run Sys2Proof.core (bs.length + 1)
        { s with inflight := none, host := (b :: bs).map fun b => .write 0xFF (encode (.owwb b)) } =
      .next { s.bus ((b :: bs).map .w) with rcode := .ok, inflight := none, host := [] } := by
  obtain ⟨-, -, hwrite⟩ := owwbEffect
  induction bs generalizing b s with
  | nil => exact run_commandWord 0 (hwrite _ b)
  | cons c cs ih =>
    refine (run_commandWord _ (hwrite _ b)).trans ((ih c { s.bus [.w b] with rcode := .ok }).trans ?_)
    change Host.Outcome.next { (s.bus [.w b]).bus ((c :: cs).map .w) with
      rcode := .ok, inflight := none, host := [] } = _
    rw [State.bus_bus]
    rfl

/-- `BIT` holds the last sample. -/
theorem run_owrbs (n : Nat) (s : State) :
    Host.Core.run Sys2Proof.core (n + 1)
        { s with inflight := none, host := List.replicate (n + 1) (.write 0xFF (encode .owrb)) } =
      .next { s.bus ((s.levels 0 (n + 1)).map .r) with
        bit := s.level n, rcode := .ok, inflight := none, host := [] } := by
  obtain ⟨-, hread⟩ := owrbEffect
  induction n generalizing s with
  | zero => exact run_commandWord 0 (hread _)
  | succ n ih =>
    refine (run_commandWord _ (hread _)).trans
      ((ih { s.bus [.r (s.level 0)] with bit := s.level 0, rcode := .ok }).trans ?_)
    change Host.Outcome.next { (s.bus [.r (s.level 0)]).bus (((s.bus [.r (s.level 0)]).levels 0 (n + 1)).map .r) with
      bit := (s.bus [.r (s.level 0)]).level n, rcode := .ok, inflight := none, host := [] } = _
    rw [State.bus_bus, levels_bus, State.level_bus, Nat.add_comm _ n, levels_succ s 0 (n + 1)]
    rfl

/-- Settles O25: both sides leave the same eight events (`byteBits v` is one bit and seven more); a run of bit commands
empties the queue it was given. -/
theorem byteCommandIsEightBitCommands : Obligations.ByteCommandIsEightBitCommands :=
  fun s v => ⟨⟨_, _, exec_owwby v s, run_owwbs _ _ s, rfl⟩, ⟨_, _, exec_owrby s, run_owrbs 7 s, rfl⟩⟩

end Sys2Proof.Machine
end

section
/-! The CRC family: the register as a fold of `crcStep` over the bits in wire order. One step is linear over
exclusive-or and loses no information; both carry over to every run of bits, and so to bytes and identifiers. -/

namespace Sys2Proof.Machine

/-! ## One step of the register (R151) -/

/-- The feedback as a mask: the shifted register, with the constant added when the feedback bit is set. -/
theorem crcStep_eq (c : Byte) (d : Bool) : crcStep c d = c >>> 1 ^^^ bif c.getLsbD 0 ^^ d then 0x8C#8 else 0#8 := by
  unfold crcStep
  cases c.getLsbD 0 ^^ d
  · exact BitVec.xor_zero.symm
  · rfl

theorem feedback_xor (p q : Bool) :
    (bif p ^^ q then 0x8C#8 else 0#8) = (bif p then 0x8C#8 else 0#8) ^^^ bif q then 0x8C#8 else 0#8 := by
  cases p <;> cases q <;> rfl

theorem crcStep_xor (a b : Byte) (d e : Bool) : crcStep (a ^^^ b) (d ^^ e) = crcStep a d ^^^ crcStep b e := by
  have hfb : ((a ^^^ b).getLsbD 0 ^^ (d ^^ e)) = ((a.getLsbD 0 ^^ d) ^^ (b.getLsbD 0 ^^ e)) := by
    simp only [BitVec.getLsbD_xor, Bool.xor_assoc, Bool.xor_left_comm]
  rw [crcStep_eq, hfb, feedback_xor, BitVec.ushiftRight_xor_distrib, crcStep_eq, crcStep_eq]
  ac_rfl

/-- Nothing is shifted out unseen: bit 7 of the constant is set, and the shift brings in a 0 there. -/
theorem crcStep_false_eq_zero {c : Byte} (h : crcStep c false = 0) : c = 0 := by
  revert c; decide

theorem crcStep_injective (d : Bool) : Function.Injective (crcStep · d) := by
  intro a b h
  have hdiff : crcStep (a ^^^ b) false = 0 := by
    rw [← Bool.xor_self d, crcStep_xor]
    exact BitVec.xor_eq_zero_iff.2 h
  exact BitVec.xor_eq_zero_iff.1 (crcStep_false_eq_zero hdiff)

theorem crcStep_not_ne (c : Byte) (d : Bool) : crcStep c (!d) ≠ crcStep c d := by
  intro h
  have hdiff : crcStep (c ^^^ c) (!d ^^ d) = 0 := by
    rw [crcStep_xor]
    exact BitVec.xor_eq_zero_iff.2 h
  rw [BitVec.xor_self, Bool.not_xor_self] at hdiff
  exact absurd hdiff (by decide)

/-! ## Runs of bits -/

theorem foldl_crcStep_xor {α : Type} (ps : List α) (f g : α → Bool) (a b : Byte) :
    (ps.map fun p => f p ^^ g p).foldl crcStep (a ^^^ b) =
      (ps.map f).foldl crcStep a ^^^ (ps.map g).foldl crcStep b := by
  induction ps generalizing a b with
  | nil => rfl
  | cons p ps ih => simp only [List.map_cons, List.foldl_cons, crcStep_xor, ih]

theorem foldl_crcStep_injective (bs : List Bool) : Function.Injective (bs.foldl crcStep ·) := by
  induction bs with
  | nil => exact Function.injective_id
  | cons b bs ih => exact ih.comp (crcStep_injective b)

/-- Of two runs that differ in one bit, the registers differ from that bit on. -/
theorem foldl_crcStep_ne_of_single_flip {α : Type} {ps : List α} {p : α} {f g : α → Bool} (hnodup : ps.Nodup)
    (hp : p ∈ ps) (hflip : f p = !g p) (hsame : ∀ q ∈ ps, q ≠ p → f q = g q) (c : Byte) :
    (ps.map f).foldl crcStep c ≠ (ps.map g).foldl crcStep c := by
  induction ps generalizing c with
  | nil => nomatch hp
  | cons q ps ih =>
    obtain ⟨hq, hnodup⟩ := List.nodup_cons.1 hnodup
    simp only [List.map_cons, List.foldl_cons]
    obtain rfl | hp := List.mem_cons.1 hp
    · have hrest : ps.map f = ps.map g :=
        List.map_congr_left fun r hr => hsame r (.tail _ hr) fun h => hq (h ▸ hr)
      rw [hflip, hrest]
      exact (foldl_crcStep_injective _).ne (crcStep_not_ne c (g p))
    · rw [hsame q (.head _) fun h => hq (h ▸ hp)]
      exact ih hnodup hp (fun r hr => hsame r (.tail _ hr)) _

/-! ## The register fed its own value (R152) -/

/-- Fed its own bits from bit 0 on, the register only shifts: every feedback bit is 0. -/
theorem foldl_crcStep_own_bits (c : Byte) (n : Nat) :
    ((List.range n).map fun i => c.getLsbD i).foldl crcStep c = c >>> n := by
  induction n with
  | zero => exact (BitVec.ushiftRight_zero c).symm
  | succ n ih =>
    have hfb : ((c >>> n).getLsbD 0 ^^ c.getLsbD n) = false := by
      rw [BitVec.getLsbD_ushiftRight, Nat.add_zero, Bool.xor_self]
    rw [List.range_succ, List.map_append, List.foldl_append, ih]
    change crcStep (c >>> n) (c.getLsbD n) = _
    rw [crcStep_eq, hfb, BitVec.shiftRight_add]
    exact BitVec.xor_zero

theorem crcByte_self (c : Byte) : crcByte c c = 0 :=
  (foldl_crcStep_own_bits c 8).trans (BitVec.ushiftRight_eq_zero (Nat.le_refl 8))

theorem crcByte_eq_zero_iff (c v : Byte) : crcByte c v = 0 ↔ v = c := by
  constructor
  · intro h
    exact (foldl_crcStep_injective (byteBits v) (h.trans (crcByte_self v).symm)).symm
  · rintro rfl
    exact crcByte_self v

theorem crc8_eq_crcByte (id : Identifier) :
    crc8 id = crcByte (crcSeq [id[7], id[6], id[5], id[4], id[3], id[2], id[1]]) id[0] := by
  simp only [crc8, wireBytes, crcSeq, List.foldl_cons, List.foldl_nil]

/-- Settles O27: `ID[0]` is the last byte fed, and the register is empty after it exactly when it is the value the
register had before. -/
theorem checksumByteIsCrcOfTheRest : Obligations.ChecksumByteIsCrcOfTheRest :=
  ⟨crcByte_self, fun id => crc8_eq_crcByte id ▸ crcByte_eq_zero_iff _ id[0]⟩

/-! ## The checksum of an identifier, bit by bit -/

theorem crcSeq_eq_foldl_bits (vs : List Byte) : crcSeq vs = (vs.flatMap byteBits).foldl crcStep 0 :=
  List.foldl_flatMap.symm

theorem crc8_eq_foldl_wireBits (id : Identifier) : crc8 id = (wirePositions.map (wireBit id)).foldl crcStep 0 := by
  rw [← identifierBits_eq_map_wireBit]
  exact crcSeq_eq_foldl_bits (wireBytes id)

theorem wireBit_zipWith_xor (x y : Identifier) :
    wireBit (Vector.zipWith (fun a b => a ^^^ b) x y) = fun c => wireBit x c ^^ wireBit y c := by
  funext c
  simp [wireBit]

/-- Settles O28: both registers start at 0, and a run of steps is linear in the register and in the bits. -/
theorem crcIsLinear : Obligations.CrcIsLinear := by
  intro x y
  simp only [crc8_eq_foldl_wireBits, wireBit_zipWith_xor]
  exact foldl_crcStep_xor wirePositions (wireBit x) (wireBit y) 0 0

/-- A flipped wire bit changes the checksum, of a valid identifier or not. -/
theorem crc8_flip_ne (id : Identifier) {c : Nat} (h1 : 1 ≤ c) (h64 : c ≤ 64) :
    crc8 (setWireBit id c (!wireBit id c)) ≠ crc8 id := by
  have hmem (q : Nat) : q ∈ wirePositions ↔ 1 ≤ q ∧ q ≤ 64 := by
    rw [wirePositions, List.mem_range'_1]; omega
  rw [crc8_eq_foldl_wireBits, crc8_eq_foldl_wireBits]
  refine foldl_crcStep_ne_of_single_flip List.nodup_range' ((hmem c).2 ⟨h1, h64⟩)
    (wireBit_setWireBit_same ..) (fun q hq hne => ?_) 0
  obtain ⟨hq1, hq64⟩ := (hmem q).1 hq
  exact wireBit_setWireBit_ne id _ h1 hq1 h64 hq64 hne

theorem crc8_replicate_zero : crc8 (Vector.replicate 8 0) = 0 := by
  have hzero : crcByte 0#8 0#8 = 0#8 := crcByte_self 0
  simp [crc8, crcSeq, wireBytes, hzero]

/-- Settles O29: the checksum of a valid identifier is 0, and a flip changes it. -/
theorem crcDetectsSingleBitFlips : Obligations.CrcDetectsSingleBitFlips :=
  ⟨fun id _ hvalid h1 h64 => hvalid ▸ crc8_flip_ne id h1 h64, crc8_replicate_zero⟩

/-! ## The command (R153) -/

theorem toNat_opcode_append (op x : Byte) : (op ++ x : CmdWord).toNat = 256 * op.toNat + x.toNat := by
  rw [BitVec.toNat_append, ← Nat.shiftLeft_add_eq_or_of_lt x.isLt, Nat.shiftLeft_eq, Nat.mul_comm]

theorem toNat_entryOperand (n : BitVec 7) : (entryOperand n).toNat = n.toNat :=
  (BitVec.toNat_append 0#1 n).trans (Nat.zero_or n.toNat)

/-- The word of a `REC[n]` form as a sum: the opcode's word with the index added. -/
theorem add_setWidth_eq_entryWord (op : Byte) (n : BitVec 7) :
    (op ++ 0#8) + n.setWidth 16 = op ++ entryOperand n := by
  have hop := op.isLt
  have hn := n.isLt
  have hword : 256 * op.toNat + n.toNat < 2 ^ 16 := by omega
  apply BitVec.eq_of_toNat_eq
  rw [BitVec.toNat_add, toNat_opcode_append, toNat_opcode_append, toNat_entryOperand,
    BitVec.toNat_setWidth_of_le (by decide)]
  exact Nat.mod_eq_of_lt hword

theorem withSelected_of_some {sel : Selector} {s : State} {id : Identifier} (h : s.selected sel = some id)
    (body : Identifier → State → State) : withSelected sel body s = body id s := by
  rw [withSelected, h]

theorem withSelected_of_none {sel : Selector} {s : State} (h : s.selected sel = none)
    (body : Identifier → State → State) : withSelected sel body s = s.reject := by
  rw [withSelected, h]

theorem crcCommand_eq (id : Identifier) (s : State) : crcCommand id s = { s with
    res := crc8 id, crcv := decide (crc8 id = 0), rcode := if crc8 id = 0 then .ok else .crcMismatch,
    inflight := none } := by
  simp [crcCommand, State.finish, crcCode, crcValid]

/-- Settles O26: an entry's word is the encoder's; the selector gives the identifier or rejects the word. -/
theorem crc8Effect : Obligations.Crc8Effect := by
  refine ⟨decode_encode .crc8Rom, fun n => ?_, fun s => ⟨?_, fun idx hm hn => ?_, fun idx hn => ?_⟩⟩
  · exact (congrArg decode (add_setWidth_eq_entryWord 0x06 n)).trans (decode_encode (.crc8Rec n))
  · exact congrArg Host.Outcome.next (crcCommand_eq s.rom s)
  · exact congrArg Host.Outcome.next ((withSelected_of_some (selected_entry hn hm) _).trans (crcCommand_eq _ s))
  · exact congrArg Host.Outcome.next (withSelected_of_none (selected_illegal hn) crcCommand)

end Sys2Proof.Machine
end

section
/-! The ROM search family, the two commands: each way a pass can end as the whole next state, from the laws of a pass
in `Laws/Search`. -/

namespace Sys2Proof.Machine

/-- Settles O30: `clearSearch` and `done` are updates of the five registers. -/
theorem srchrstEffect : Obligations.SrchrstEffect := ⟨decode_encode .srchrst, fun _ => rfl⟩

theorem exec_srchnxt {s : State} (hldf : s.ldf = false) :
    exec .srchnxt s = .next ((searchPass s).2.finish (searchPass s).1) := by
  change Host.Outcome.next (searchCommand s) = _
  simp [searchCommand, hldf]

/-- Settles O32: it is the pass that ends after its reset slot. -/
theorem srchnxtBusError : Obligations.SrchnxtBusError := by
  intro s hldf hp
  rw [exec_srchnxt hldf, searchPass_absent s hp]
  rfl

/-- Settles O33: the pass that ends at its first silent pair; `passRom` is the buffer so far. -/
theorem srchnxtNoDevice : Obligations.SrchnxtNoDevice := by
  intro s k hldf hp hk hs hsil
  refine ⟨_, exec_srchnxt hldf, ?_⟩
  rw [searchPass_silent s hp hk hs hsil]
  refine ⟨fun c h1 h64 => wireBit_passRom s hk.le h1 h64, ?_⟩
  simp only [passState, State.bus_bus, passEvents, List.cons_append, List.append_assoc]
  rfl

/-! ## `lastZero` (R165) -/

/-- No conflict resolved to 0 lies beyond `lastZero`. -/
theorem le_passLast (s : State) {n c : Nat} (h1 : 1 ≤ c) (hcn : c ≤ n) (hconf : conflictAt s c = true)
    (hdir : directionAt s c = false) : c ≤ passLast s n := by
  induction n with
  | zero => omega
  | succ n ih =>
    rw [passLast_succ]
    split
    case isTrue => exact hcn
    case isFalse hnot =>
      have hne : c ≠ n + 1 := by
        rintro rfl
        simp [hconf, hdir] at hnot
      exact ih (by omega)

theorem passLast_cases (s : State) (n : Nat) :
    passLast s n = 0 ∨
      1 ≤ passLast s n ∧ conflictAt s (passLast s n) = true ∧ directionAt s (passLast s n) = false := by
  induction n with
  | zero => exact .inl rfl
  | succ n ih =>
    rw [passLast_succ]
    split
    case isTrue h =>
      simp only [Bool.and_eq_true, Bool.not_eq_true'] at h
      exact .inr ⟨by omega, h⟩
    case isFalse => exact ih

theorem crcCode_eq (id : Identifier) : crcCode id = if crc8 id = 0 then .ok else .crcMismatch := by
  simp [crcCode, crcValid]

/-- Settles O34: the pass that meets no silent pair; `lastZero` fits in the seven bits of `LCP`. -/
theorem srchnxtDeviceFound : Obligations.SrchnxtDeviceFound := by
  intro s hldf hp hs
  have hle := passLast_le s 64
  have hlcp : (BitVec.ofNat 7 (passLast s 64)).toNat = passLast s 64 := by simp; omega
  have hldf' : terminalFlag (passLast s 64) = decide (BitVec.ofNat 7 (passLast s 64) = 0) := by
    simp only [terminalFlag, ← BitVec.toNat_inj, hlcp]
    rfl
  refine ⟨_, exec_srchnxt hldf, ?_⟩
  rw [searchPass_complete s hp hs]
  simp only [completePass, State.finish, passState, passEvents, State.bus_rom, hlcp, hldf', crcCode_eq]
  refine ⟨fun c h1 h64 => ?_, fun c h1 h64 => le_passLast s h1 h64, ?_, ?_⟩
  · exact (wireBit_passRom s (Nat.le_refl 64) h1 h64).trans (if_pos h64)
  · exact (passLast_cases s 64).imp_right fun ⟨h1, h⟩ => ⟨h1, hle, h⟩
  · generalize passRom s 64 = id
    rfl

end Sys2Proof.Machine
end

section
/-! The ROM search family, the bus side: the order of the identifiers on the wire, and where the reference devices
stand in a pass whose answers are theirs. -/

namespace Sys2Proof.Machine

/-! ## The order of the wire-bit strings (R172) -/

/-- Two bit strings agree at the positions 1 to `c - 1`. -/
abbrev AgreeBelow (c : Nat) (f g : Nat → Bool) : Prop := ∀ k, 1 ≤ k → k < c → f k = g k

/-- `y` leaves the path of `x` upwards at wire bit `c`: the witness of `wireLess x y`. -/
structure BranchesAt (c : Nat) (x y : Identifier) : Prop where
  agree : AgreeBelow c (wireBit x) (wireBit y)
  lower : wireBit x c = false
  upper : wireBit y c = true

theorem AgreeBelow.symm {c : Nat} {f g : Nat → Bool} (h : AgreeBelow c f g) : AgreeBelow c g f :=
  fun k h1 hk => (h k h1 hk).symm

theorem AgreeBelow.trans {c : Nat} {f g e : Nat → Bool} (h : AgreeBelow c f g) (h' : AgreeBelow c g e) :
    AgreeBelow c f e :=
  fun k h1 hk => (h k h1 hk).trans (h' k h1 hk)

theorem AgreeBelow.mono {b c : Nat} {f g : Nat → Bool} (h : AgreeBelow c f g) (hbc : b ≤ c) : AgreeBelow b f g :=
  fun k h1 hk => h k h1 (by omega)

theorem agreeBelow_succ {c : Nat} (h1 : 1 ≤ c) {f g : Nat → Bool} :
    AgreeBelow (c + 1) f g ↔ AgreeBelow c f g ∧ f c = g c := by
  constructor
  · exact fun h => ⟨h.mono (by omega), h c h1 (by omega)⟩
  · rintro ⟨h, hc⟩ k hk hlt
    obtain hlt | rfl : k < c ∨ k = c := by omega
    · exact h k hk hlt
    · exact hc

theorem wireLess_iff_branchesAt {x y : Identifier} :
    wireLess x y ↔ ∃ c, 1 ≤ c ∧ c ≤ 64 ∧ BranchesAt c x y := by
  constructor
  · rintro ⟨c, h1, h64, hagree, hx, hy⟩
    exact ⟨c, h1, h64, ⟨hagree, hx, hy⟩⟩
  · rintro ⟨c, h1, h64, ⟨hagree, hx, hy⟩⟩
    exact ⟨c, h1, h64, hagree, hx, hy⟩

theorem getElem_identifierBits (x : Identifier) {i : Nat} (h : i < (identifierBits x).length) :
    (identifierBits x)[i] = wireBit x (i + 1) := by
  simp [identifierBits_eq_map_wireBit, wirePositions, Nat.add_comm]

/-- The order is the library's lexicographic order of the strings. -/
theorem wireLess_iff_lt {x y : Identifier} : wireLess x y ↔ identifierBits x < identifierBits y := by
  rw [List.lt_iff_exists]
  simp only [getElem_identifierBits, identifierBits_length, Nat.lt_irrefl, and_false, false_or, Bool.lt_iff]
  constructor
  · rintro ⟨c, h1, h64, hagree, hlt⟩
    refine ⟨c - 1, by omega, by omega, fun j hj => hagree _ (by omega) (by omega), ?_⟩
    rwa [Nat.sub_add_cancel h1]
  · rintro ⟨i, hi, -, hagree, hlt⟩
    refine ⟨i + 1, by omega, by omega, fun k h1 hk => ?_, hlt⟩
    rw [← Nat.sub_add_cancel h1]
    exact hagree _ (by omega)

theorem wireLess_irrefl (x : Identifier) : ¬ wireLess x x := fun h => lt_irrefl _ (wireLess_iff_lt.1 h)

theorem wireLess_trans {x y z : Identifier} (hxy : wireLess x y) (hyz : wireLess y z) : wireLess x z :=
  wireLess_iff_lt.2 ((wireLess_iff_lt.1 hxy).trans (wireLess_iff_lt.1 hyz))

theorem identifierBits_injective : Function.Injective identifierBits := by
  intro x y h
  refine identifier_ext_wireBit fun c h1 h64 => ?_
  have hx := getElem_identifierBits x (i := c - 1) (by rw [identifierBits_length]; omega)
  have hy := getElem_identifierBits y (i := c - 1) (by rw [identifierBits_length]; omega)
  rw [Nat.sub_add_cancel h1] at hx hy
  rw [← hx, ← hy]
  simp only [h]

/-- Distinct identifiers can be listed in increasing order. -/
theorem exists_sorted {ids : List Identifier} (hnodup : ids.Nodup) :
    ∃ l : List Identifier, l.Perm ids ∧ l.Pairwise wireLess := by
  have hsorted := List.pairwise_mergeSort' (identifierBits ⁻¹'o (· ≤ ·)) ids
  have hperm := List.mergeSort_perm ids fun x y => decide ((identifierBits ⁻¹'o (· ≤ ·)) x y)
  refine ⟨_, hperm, (hsorted.and (hperm.nodup_iff.2 hnodup)).imp fun ⟨hle, hne⟩ => ?_⟩
  exact wireLess_iff_lt.2 (lt_of_le_of_ne hle (identifierBits_injective.ne hne))

/-! ## A population under a run of events (R85 to R87) -/

theorem mapM_map_some {f g : Device → Device} {act : Device → Option Device} (h : ∀ d, act (f d) = some (g d))
    (ds : List Device) : (ds.map f).mapM act = some (ds.map g) := by
  rw [List.mapM_map, show act ∘ f = fun d => some (g d) from funext h]
  exact List.mapM_pure

theorem ids_of_mapM {act : Device → Option Device} (h : ∀ d d', act d = some d' → d'.id = d.id)
    {ds ds' : List Device} (hact : ds.mapM act = some ds') : ds'.map Device.id = ds.map Device.id := by
  induction ds generalizing ds' with
  | nil =>
    obtain rfl : [] = ds' := by simpa using hact
    rfl
  | cons d ds ih =>
    simp only [List.mapM_cons, Option.bind_eq_bind, Option.bind_eq_some_iff, Option.pure_def,
      Option.some.injEq] at hact
    obtain ⟨e, he, es, hes, rfl⟩ := hact
    rw [List.map_cons, List.map_cons, h d e he, ih hes]

theorem id_of_read {d d' : Device} (h : d.read = some d') : d'.id = d.id := by
  unfold Device.read at h
  split at h <;> cases h <;> rfl

theorem id_of_write {b : Bool} {d d' : Device} (h : d.write b = some d') : d'.id = d.id := by
  unfold Device.write at h
  split at h
  case h_9 =>
    dsimp only at h
    split at h <;> cases h <;> rfl
  all_goals cases h <;> rfl

theorem ids_of_observe {ds ds' : List Device} {e : Event} (h : observe ds e = some ds') :
    ds'.map Device.id = ds.map Device.id := by
  cases e with
  | rst p =>
    obtain ⟨-, rfl⟩ : p = !ds.isEmpty ∧ ds.map Device.resetSlot = ds' := by simpa [observe] using h
    simp [Device.resetSlot]
  | w b => exact ids_of_mapM (fun _ _ => id_of_write) h
  | r b =>
    obtain ⟨-, h⟩ : b = ds.all Device.sends ∧ ds.mapM Device.read = some ds' := by simpa [observe] using h
    exact ids_of_mapM (fun _ _ => id_of_read) h

theorem observeAll_append (ds : List Device) (es fs : List Event) :
    observeAll ds (es ++ fs) = (observeAll ds es).bind fun ds' => observeAll ds' fs := by
  induction es generalizing ds with
  | nil => rfl
  | cons e es ih => simp only [List.cons_append, observeAll, ih, Option.bind_assoc]

theorem ids_of_observeAll {ds ds' : List Device} {es : List Event} (h : observeAll ds es = some ds') :
    ds'.map Device.id = ds.map Device.id := by
  induction es generalizing ds with
  | nil =>
    obtain rfl := Option.some.inj h
    rfl
  | cons e es ih =>
    obtain ⟨ds1, he, hes⟩ := Option.bind_eq_some_iff.1 h
    rw [ih hes, ids_of_observe he]

/-- A population that explains two runs in a row explains the second one after the first. -/
theorem explains_append {ds : List Device} {es fs : List Event} (h : explains ds (es ++ fs) = true) :
    ∃ ds', observeAll ds es = some ds' ∧ explains ds' fs = true := by
  rw [explains, observeAll_append] at h
  cases hes : observeAll ds es with
  | none => simp [hes] at h
  | some ds' =>
    rw [hes] at h
    exact ⟨ds', rfl, h⟩

/-! ## A population in a pass (R86, R87, R89) -/

/-- A device that has heard `got` of the ROM command byte. -/
def Device.hearing (got : List Bool) (d : Device) : Device := { d with proto := .romCmd got }

/-- A device at wire bit `c` of the pass that starts in `s`: in the search while its bits are the directions taken. -/
def Device.atBit (s : State) (c reads : Nat) (d : Device) : Device :=
  { d with proto := if AgreeBelow c (wireBit d.id) (directionAt s) then .search c reads else .idle }

/-- After its eighth bit the byte decides where every device goes. -/
theorem observeAll_romByte (ds : List Device) (got bs : List Bool) (hbs : bs ≠ [])
    (hlen : got.length + bs.length = 8) :
    observeAll (ds.map (Device.hearing got)) (bs.map .w) =
      some (ds.map fun d => { d with proto := afterRomByte (byteOfBits (got ++ bs)) }) := by
  induction bs generalizing got with
  | nil => exact absurd rfl hbs
  | cons b bs ih =>
    cases bs with
    | nil =>
      have hlen : got.length = 7 := by simpa using hlen
      have hwrite (d : Device) :
          (d.hearing got).write b = some { d with proto := afterRomByte (byteOfBits (got ++ [b])) } := by
        simp [Device.hearing, Device.write, hlen]
      simp [observeAll, observe, mapM_map_some hwrite]
    | cons b' bs =>
      have hwrite (d : Device) : (d.hearing got).write b = some (d.hearing (got ++ [b])) := by
        have hne : got.length ≠ 7 := by simp at hlen; omega
        simp [Device.hearing, Device.write, hne]
      rw [List.map_cons, observeAll, observe, mapM_map_some hwrite, Option.bind_some,
        ih _ (by simp) (by simp at hlen ⊢; omega)]
      simp

/-- After the reset slot and the search command every device is in the search (R86). -/
theorem observeAll_passStart (s : State) {ds : List Device} (hne : ds ≠ []) :
    observeAll ds (passEvents s 0) = some (ds.map (Device.atBit s 1 0)) := by
  have hsearch (d : Device) : { d with proto := afterRomByte Config.cmdSearch } = d.atBit s 1 0 := by
    rw [Device.atBit, if_pos fun k _ _ => by omega]
    rfl
  have hreset : observe ds (.rst true) = some (ds.map (Device.hearing [])) := by
    simp [observe, hne, Device.resetSlot, Device.hearing]
  have hbyte := observeAll_romByte ds [] (byteBits Config.cmdSearch) (by decide) (by decide)
  simp only [List.nil_append, byteOfBits_byteBits, hsearch] at hbyte
  simpa [passEvents, observeAll, hreset, wroteByte] using hbyte

section
variable {s : State} {c : Nat} {d : Device}

theorem atBit_of_agree (h : AgreeBelow c (wireBit d.id) (directionAt s)) (reads : Nat) :
    d.atBit s c reads = { d with proto := .search c reads } := by
  rw [Device.atBit, if_pos h]

theorem atBit_of_not_agree (h : ¬ AgreeBelow c (wireBit d.id) (directionAt s)) (reads : Nat) :
    d.atBit s c reads = { d with proto := .idle } := by
  rw [Device.atBit, if_neg h]

theorem sends_atBit_zero :
    (d.atBit s c 0).sends = true ↔ (AgreeBelow c (wireBit d.id) (directionAt s) → wireBit d.id c = true) := by
  by_cases h : AgreeBelow c (wireBit d.id) (directionAt s)
  · rw [atBit_of_agree h]
    exact ⟨fun hbit _ => hbit, fun hbit => hbit h⟩
  · rw [atBit_of_not_agree h]
    exact ⟨fun _ hagree => absurd hagree h, fun _ => rfl⟩

theorem sends_atBit_one :
    (d.atBit s c 1).sends = true ↔ (AgreeBelow c (wireBit d.id) (directionAt s) → wireBit d.id c = false) := by
  by_cases h : AgreeBelow c (wireBit d.id) (directionAt s)
  · rw [atBit_of_agree h]
    change (!wireBit d.id c) = true ↔ _
    rw [Bool.not_eq_true']
    exact ⟨fun hbit _ => hbit, fun hbit => hbit h⟩
  · rw [atBit_of_not_agree h]
    exact ⟨fun _ hagree => absurd hagree h, fun _ => rfl⟩

/-- The two reads of the triplet. -/
theorem read_atBit {reads : Nat} (h2 : reads = 0 ∨ reads = 1) :
    (d.atBit s c reads).read = some (d.atBit s c (reads + 1)) := by
  by_cases h : AgreeBelow c (wireBit d.id) (directionAt s)
  · rw [atBit_of_agree h, atBit_of_agree h]
    obtain rfl | rfl := h2 <;> rfl
  · rw [atBit_of_not_agree h, atBit_of_not_agree h]
    rfl

/-- The direction bit leaves those devices in the search whose bit it is (R87). -/
theorem write_atBit (h1 : 1 ≤ c) (h64 : c ≠ 64) :
    (d.atBit s c 2).write (directionAt s c) = some (d.atBit s (c + 1) 0) := by
  by_cases h : AgreeBelow c (wireBit d.id) (directionAt s)
  · rw [atBit_of_agree h]
    simp only [Device.write, Device.compare, if_neg h64]
    by_cases hbit : directionAt s c = wireBit d.id c
    · rw [if_pos hbit, atBit_of_agree ((agreeBelow_succ h1).2 ⟨h, hbit.symm⟩)]
    · rw [if_neg hbit, atBit_of_not_agree fun h' => hbit ((agreeBelow_succ h1).1 h').2.symm]
  · rw [atBit_of_not_agree h, atBit_of_not_agree fun h' => h ((agreeBelow_succ h1).1 h').1]
    rfl

end

/-- What the pair at wire bit `c` says when the answers are those of devices with these identifiers: each sample is the
wired AND over the identifiers still in the search (R87, R108). -/
structure HeardAt (ids : List Identifier) (s : State) (c : Nat) : Prop where
  a : pairA s c = true ↔ ∀ x ∈ ids, AgreeBelow c (wireBit x) (directionAt s) → wireBit x c = true
  b : pairB s c = true ↔ ∀ x ∈ ids, AgreeBelow c (wireBit x) (directionAt s) → wireBit x c = false

theorem observe_read_map {f g : Device → Device} (h : ∀ d, (f d).read = some (g d)) {b : Bool} {ds ds' : List Device}
    (hobs : observe (ds.map f) (.r b) = some ds') :
    (b = true ↔ ∀ d ∈ ds, (f d).sends = true) ∧ ds' = ds.map g := by
  obtain ⟨rfl, hread⟩ : b = (ds.map f).all Device.sends ∧ (ds.map f).mapM Device.read = some ds' := by
    simpa only [observe, Option.ite_none_right_eq_some] using hobs
  rw [mapM_map_some h] at hread
  exact ⟨by simp, (Option.some.inj hread).symm⟩

theorem heardAt_of_pair {s : State} {c : Nat} {ds ds' : List Device}
    (hobs : observeAll (ds.map (Device.atBit s c 0)) [.r (pairA s c), .r (pairB s c)] = some ds') :
    HeardAt (ds.map Device.id) s c ∧ ds' = ds.map (Device.atBit s c 2) := by
  obtain ⟨ds1, hA, hB⟩ := Option.bind_eq_some_iff.1 hobs
  obtain ⟨ha, rfl⟩ := observe_read_map (fun _ => read_atBit (.inl rfl)) hA
  obtain ⟨ds2, hB, hend⟩ := Option.bind_eq_some_iff.1 hB
  obtain ⟨hb, rfl⟩ := observe_read_map (fun _ => read_atBit (.inr rfl)) hB
  refine ⟨⟨?_, ?_⟩, (Option.some.inj hend).symm⟩
  · simpa [sends_atBit_zero] using ha
  · simpa [sends_atBit_one] using hb

/-- Every device that hears a pass is where the directions taken so far put it. -/
theorem observeAll_passEvents {s : State} {n : Nat} (hn : n < 64) {ds ds' : List Device} (hne : ds ≠ [])
    (hobs : observeAll ds (passEvents s n) = some ds') : ds' = ds.map (Device.atBit s (n + 1) 0) := by
  induction n generalizing ds' with
  | zero => exact Option.some.inj (hobs.symm.trans (observeAll_passStart s hne))
  | succ n ih =>
    rw [passEvents_succ, observeAll_append] at hobs
    obtain ⟨ds1, h1, h2⟩ := Option.bind_eq_some_iff.1 hobs
    obtain rfl := ih (by omega) h1
    have hsplit : tripletAt s (n + 1) = [.r (pairA s (n + 1)), .r (pairB s (n + 1))] ++ [.w (directionAt s (n + 1))] :=
      rfl
    rw [hsplit, observeAll_append] at h2
    obtain ⟨ds2, h2, h3⟩ := Option.bind_eq_some_iff.1 h2
    obtain ⟨-, rfl⟩ := heardAt_of_pair h2
    have hwrite (d : Device) := write_atBit (s := s) (d := d) (Nat.succ_pos n) (by omega)
    simpa [observeAll, observe, mapM_map_some hwrite, eq_comm] using h3

/-- A population that explains the events of a pass up to the pair at `n + 1` gave that pair. -/
theorem heardAt_of_explains {s : State} {n : Nat} (hn : n < 64) {ds : List Device} (hne : ds ≠ []) {es : List Event}
    (hexp : explains ds es = true)
    (hpre : passEvents s n ++ [.r (pairA s (n + 1)), .r (pairB s (n + 1))] <+: es) :
    HeardAt (ds.map Device.id) s (n + 1) := by
  obtain ⟨fs, rfl⟩ := hpre
  rw [List.append_assoc] at hexp
  obtain ⟨ds1, h1, hexp⟩ := explains_append hexp
  obtain rfl := observeAll_passEvents hn hne h1
  obtain ⟨ds2, h2, -⟩ := explains_append hexp
  exact (heardAt_of_pair h2).1

end Sys2Proof.Machine
end

section
/-! The ROM search family, one pass over a population: the pairs are wired ANDs over the devices still in the search,
so that one of them stays in it to the end, and its identifier is found. -/

namespace Sys2Proof.Machine

/-! ## What a pass finds on a population (R164 to R169) -/

theorem conflictAt_iff {s : State} {c : Nat} : conflictAt s c = true ↔ pairA s c ≠ true ∧ pairB s c ≠ true := by
  simp [conflictAt]

/-- At a conflict the direction is 1 where the pass before it branched, the old path below it, and 0 beyond (R165). -/
theorem directionAt_of_conflict {s : State} {c : Nat} (h : conflictAt s c = true) :
    directionAt s c =
      if c = s.lcp.toNat then true else if s.lcp.toNat < c then false else wireBit s.rom c := by
  rw [directionAt, if_pos h]

section
variable {ids : List Identifier} {s : State} {c : Nat} {x : Identifier}

theorem HeardAt.conflict_iff (h : HeardAt ids s c) :
    conflictAt s c = true ↔
      (∃ x ∈ ids, AgreeBelow c (wireBit x) (directionAt s) ∧ wireBit x c = false) ∧
        ∃ y ∈ ids, AgreeBelow c (wireBit y) (directionAt s) ∧ wireBit y c = true := by
  rw [conflictAt_iff, ne_eq, ne_eq, h.a, h.b]
  simp only [not_forall, Bool.not_eq_true, Bool.not_eq_false, exists_prop]

/-- Without a conflict the direction is the bit of every device still in the search. -/
theorem HeardAt.wireBit_eq_directionAt (h : HeardAt ids s c) (hconf : conflictAt s c ≠ true) (hx : x ∈ ids)
    (hagree : AgreeBelow c (wireBit x) (directionAt s)) : wireBit x c = directionAt s c := by
  have hdir : directionAt s c = pairA s c := by rw [directionAt, if_neg hconf]
  rw [hdir]
  cases hbit : wireBit x c with
  | true =>
    by_contra hA
    have hB : pairB s c = true := by
      by_contra hB
      exact hconf (conflictAt_iff.2 ⟨Ne.symm hA, hB⟩)
    simp [h.b.1 hB x hx hagree] at hbit
  | false =>
    by_contra hA
    have hA : pairA s c = true := by simpa using Ne.symm hA
    simp [h.a.1 hA x hx hagree] at hbit

theorem HeardAt.not_silent (h : HeardAt ids s c) (hx : x ∈ ids)
    (hagree : AgreeBelow c (wireBit x) (directionAt s)) : silentAt s c = false := by
  by_contra hsil
  obtain ⟨hA, hB⟩ : pairA s c = true ∧ pairB s c = true := by simpa [silentAt] using hsil
  exact absurd (h.a.1 hA x hx hagree) (by simp [h.b.1 hB x hx hagree])

/-- A device stays in the search at every bit. -/
theorem HeardAt.exists_agreeBelow_succ (h : HeardAt ids s c) (h1 : 1 ≤ c)
    (hx : ∃ x ∈ ids, AgreeBelow c (wireBit x) (directionAt s)) :
    ∃ x ∈ ids, AgreeBelow (c + 1) (wireBit x) (directionAt s) := by
  simp only [agreeBelow_succ h1]
  by_cases hconf : conflictAt s c = true
  · obtain ⟨⟨x, hx, hagree, hbit⟩, y, hy, hagree', hbit'⟩ := h.conflict_iff.1 hconf
    cases hdir : directionAt s c with
    | false => exact ⟨x, hx, hagree, hbit⟩
    | true => exact ⟨y, hy, hagree', hbit'⟩
  · obtain ⟨x, hx, hagree⟩ := hx
    exact ⟨x, hx, hagree, h.wireBit_eq_directionAt hconf hx hagree⟩

theorem exists_agreeBelow (hne : ids ≠ []) (n : Nat) (h : ∀ c, 1 ≤ c → c ≤ n → HeardAt ids s c) :
    ∃ x ∈ ids, AgreeBelow (n + 1) (wireBit x) (directionAt s) := by
  induction n with
  | zero =>
    obtain ⟨x, hx⟩ := List.exists_mem_of_ne_nil ids hne
    exact ⟨x, hx, fun k _ _ => by omega⟩
  | succ n ih =>
    exact (h (n + 1) (by omega) (by omega)).exists_agreeBelow_succ (by omega)
      (ih fun c h1 hc => h c h1 (by omega))

end

/-- `L` is the last wire bit at which an identifier leaves the path of `z` upwards, or 0 when none does (C8). -/
structure LastBranch (ids : List Identifier) (z : Identifier) (L : Nat) : Prop where
  le : ∀ c, 1 ≤ c → c ≤ 64 → ∀ y ∈ ids, BranchesAt c z y → c ≤ L
  reached : L = 0 ∨ 1 ≤ L ∧ L ≤ 64 ∧ ∃ y ∈ ids, BranchesAt L z y

theorem LastBranch.exists_branchesAt {ids : List Identifier} {z : Identifier} {L : BitVec 7}
    (h : LastBranch ids z L.toNat) (hne : L ≠ 0) :
    1 ≤ L.toNat ∧ L.toNat ≤ 64 ∧ ∃ y ∈ ids, BranchesAt L.toNat z y :=
  h.reached.resolve_left fun h0 => hne (BitVec.eq_of_toNat_eq h0)

/-- `LCP` is 0 exactly when no identifier is beyond the one found. -/
theorem LastBranch.eq_zero_iff {ids : List Identifier} {z : Identifier} {L : BitVec 7}
    (h : LastBranch ids z L.toNat) : L = 0 ↔ ∀ y ∈ ids, ¬ wireLess z y := by
  constructor
  · rintro rfl y hy hless
    obtain ⟨c, h1, h64, hbr⟩ := wireLess_iff_branchesAt.1 hless
    have hle : c ≤ 0 := h.le c h1 h64 y hy hbr
    omega
  · intro hmax
    by_contra hne
    obtain ⟨h1, h64, y, hy, hbr⟩ := h.exists_branchesAt hne
    exact hmax y hy (wireLess_iff_branchesAt.2 ⟨_, h1, h64, hbr⟩)

/-- A pass from `s` to `t` whose answers are those of the identifiers found one of them. -/
structure Found (ids : List Identifier) (s t : State) : Prop where
  heard : ∀ c, 1 ≤ c → c ≤ 64 → HeardAt ids s c
  rom_mem : t.rom ∈ ids
  rom_bits : ∀ c, 1 ≤ c → c ≤ 64 → wireBit t.rom c = directionAt s c
  last : LastBranch ids t.rom t.lcp.toNat
  ldf : t.ldf = decide (t.lcp = 0)
  sst : t.sst = .deviceFound
  rcode : t.rcode = if crc8 t.rom = 0 then .ok else .crcMismatch

theorem agreeBelow_of_bits {s : State} {z : Identifier} (hz : ∀ c, 1 ≤ c → c ≤ 64 → wireBit z c = directionAt s c)
    {c : Nat} (h64 : c ≤ 64) : AgreeBelow c (wireBit z) (directionAt s) :=
  fun k h1 hk => hz k h1 (by omega)

/-- The conflicts a pass resolves to 0 are where an identifier leaves its path upwards. -/
theorem conflict_zero_iff {ids : List Identifier} {s : State} {z : Identifier}
    (hheard : ∀ c, 1 ≤ c → c ≤ 64 → HeardAt ids s c) (hmem : z ∈ ids)
    (hz : ∀ c, 1 ≤ c → c ≤ 64 → wireBit z c = directionAt s c) {c : Nat} (h1 : 1 ≤ c) (h64 : c ≤ 64) :
    conflictAt s c = true ∧ directionAt s c = false ↔ ∃ y ∈ ids, BranchesAt c z y := by
  have hagree := agreeBelow_of_bits hz h64
  rw [(hheard c h1 h64).conflict_iff, ← hz c h1 h64]
  constructor
  · rintro ⟨⟨-, y, hy, hyagree, hbit⟩, hzbit⟩
    exact ⟨y, hy, hagree.trans hyagree.symm, hzbit, hbit⟩
  · rintro ⟨y, hy, hzy, hzbit, hbit⟩
    exact ⟨⟨⟨z, hmem, hagree, hzbit⟩, y, hy, hzy.symm.trans hagree, hbit⟩, hzbit⟩

theorem found_of_heard {ids : List Identifier} (hne : ids ≠ []) {s t : State} (hldf : s.ldf = false)
    (hp : s.level 0 = false) (hexec : exec .srchnxt s = .next t)
    (hheard : ∀ c, 1 ≤ c → c ≤ 64 → HeardAt ids s c) : Found ids s t := by
  obtain ⟨z, hmem, hagree⟩ := exists_agreeBelow hne 64 hheard
  have hsil (c : Nat) (h1 : 1 ≤ c) (h64 : c ≤ 64) : silentAt s c = false :=
    (hheard c h1 h64).not_silent hmem (hagree.mono (by omega))
  obtain ⟨t', hexec', hrom, hle, hlast, ht⟩ := srchnxtDeviceFound s hldf hp hsil
  obtain rfl := Host.Outcome.next.inj (hexec.symm.trans hexec')
  obtain rfl : t.rom = z := identifier_ext_wireBit fun c h1 h64 => by rw [hrom c h1 h64, hagree c h1 (by omega)]
  have hiff {c : Nat} := @conflict_zero_iff _ _ _ hheard hmem hrom c
  refine ⟨hheard, hmem, hrom, ⟨fun c h1 h64 y hy hbr => ?_, hlast.imp_right fun ⟨h1, h64, h⟩ => ?_⟩,
    by rw [ht], by rw [ht], by rw [ht]⟩
  · obtain ⟨hconf, hdir⟩ := (hiff h1 h64).2 ⟨y, hy, hbr⟩
    exact hle c h1 h64 hconf hdir
  · exact ⟨h1, h64, (hiff h1 h64).1 h⟩

/-! ## The events of a pass -/

theorem newEvents_of_append {s t : State} {es : List Event} (h : t.history = s.history ++ es) : newEvents s t = es := by
  rw [newEvents, h, List.drop_left]

theorem passEvents_prefix (s : State) {n m : Nat} (h : n ≤ m) : passEvents s n <+: passEvents s m := by
  induction m with
  | zero =>
    obtain rfl : n = 0 := by omega
    exact List.prefix_rfl
  | succ m ih =>
    obtain h | rfl : n ≤ m ∨ n = m + 1 := by omega
    · exact (ih h).trans (passEvents_succ s m ▸ List.prefix_append _ _)
    · exact List.prefix_rfl

/-- The events of a pass up to the pair at `n + 1` are the start of its events up to any later position. -/
theorem pairEvents_prefix (s : State) {n m : Nat} (h : n < m) :
    passEvents s n ++ [.r (pairA s (n + 1)), .r (pairB s (n + 1))] <+: passEvents s m := by
  refine List.IsPrefix.trans ?_ (passEvents_prefix s h)
  rw [passEvents_succ]
  exact (List.prefix_append_right_inj _).2 (List.prefix_append _ [Event.w (directionAt s (n + 1))])

/-- A pass whose answers a population gives finds one of its devices. -/
theorem found_of_explains {ds : List Device} (hne : ds ≠ []) {s t : State} (hldf : s.ldf = false)
    (hexec : exec .srchnxt s = .next t) (hexp : explains ds (newEvents s t) = true) :
    Found (ds.map Device.id) s t := by
  have hids : ds.map Device.id ≠ [] := by simpa using hne
  obtain rfl := Host.Outcome.next.inj (hexec.symm.trans (exec_srchnxt hldf))
  obtain ⟨-, h⟩ | ⟨hp, -, h⟩ | ⟨k, hk, -, -, hsil, h⟩ := searchPass_cases s
  · rw [newEvents_of_append (es := [.rst false]) (by rw [h]; rfl)] at hexp
    simp [explains, observeAll, observe, hne] at hexp
  · rw [newEvents_of_append (es := passEvents s 64) (by rw [h]; rfl)] at hexp
    refine found_of_heard hids hldf hp hexec fun c h1 h64 => ?_
    rw [← Nat.sub_add_cancel h1]
    exact heardAt_of_explains (by omega) hne hexp (pairEvents_prefix s (by omega))
  · rw [newEvents_of_append (es := passEvents s k ++ [.r true, .r true])
      (by rw [h]; exact List.append_assoc ..)] at hexp
    obtain ⟨hA, hB⟩ : pairA s (k + 1) = true ∧ pairB s (k + 1) = true := by simpa [silentAt] using hsil
    have hheard (n : Nat) (hn : n ≤ k) : HeardAt (ds.map Device.id) s (n + 1) := by
      refine heardAt_of_explains (by omega) hne hexp ?_
      obtain hn | rfl := hn.lt_or_eq
      · exact (pairEvents_prefix s hn).trans (List.prefix_append _ _)
      · rw [hA, hB]
    obtain ⟨x, hx, hagree⟩ := exists_agreeBelow hids k fun c h1 hc => by
      rw [← Nat.sub_add_cancel h1]
      exact hheard _ (by omega)
    exact absurd hsil (by simp [(hheard k (Nat.le_refl k)).not_silent hx hagree])

/-- Settles O35: the pass finds the one identifier there is; a conflict would need two. -/
theorem singleDeviceFoundInOnePass : Obligations.SingleDeviceFoundInOnePass := by
  intro s t d hldf _ hexec hexp
  have h := found_of_explains (by simp) hldf hexec hexp
  have hrom : t.rom = d.id := by simpa using h.rom_mem
  have hlcp : t.lcp = 0 := h.last.eq_zero_iff.2 (by simpa [hrom] using wireLess_irrefl d.id)
  refine ⟨fun c h1 h64 => ?_, hrom, hlcp, by simp [h.ldf, hlcp], h.sst, hrom ▸ h.rcode⟩
  by_contra hconf
  obtain ⟨⟨x, hx, -, hlow⟩, y, hy, -, hup⟩ := (h.heard c h1 h64).conflict_iff.1 (by simpa using hconf)
  obtain rfl : x = d.id := by simpa using hx
  obtain rfl : y = d.id := by simpa using hy
  simp [hup] at hlow

end Sys2Proof.Machine
end

section
/-! The ROM search family, the whole enumeration: every pass finds the least identifier beyond the one found before it,
so that the passes list the identifiers in increasing order. -/

namespace Sys2Proof.Machine

/-! ## The next identifier in order (R165, R172) -/

/-- The identifiers still to be found: all of them at the start of an enumeration, then those beyond the last one
found. -/
def Unfound (s : State) (y : Identifier) : Prop := s.lcp = 0 ∨ wireLess s.rom y

/-- The search state takes up at the last identifier found, or starts afresh. -/
def Resumes (ids : List Identifier) (s : State) : Prop :=
  s.lcp = 0 ∨ s.rom ∈ ids ∧ LastBranch ids s.rom s.lcp.toNat

/-- A state between two passes of an enumeration that still has to find the identifiers of `rest`, in that order. -/
structure SearchAt (ids : List Identifier) (s : State) (rest : List Identifier) : Prop where
  ldf : s.ldf = false
  resumes : Resumes ids s
  sorted : rest.Pairwise wireLess
  mem_iff : ∀ y, y ∈ rest ↔ y ∈ ids ∧ Unfound s y

section
variable {ids : List Identifier} {s t : State}

/-- Beyond `LCP` the pass takes the lower path at every conflict. -/
theorem Found.le_lcp_of_branchesAt (h : Found ids s t) {c : Nat} (h1 : 1 ≤ c) (h64 : c ≤ 64) {y : Identifier}
    (hy : y ∈ ids) (hbr : BranchesAt c y t.rom) : c ≤ s.lcp.toNat := by
  have hagree := agreeBelow_of_bits h.rom_bits h64
  have hconf : conflictAt s c = true := (h.heard c h1 h64).conflict_iff.2
    ⟨⟨y, hy, hbr.agree.trans hagree, hbr.lower⟩,
      t.rom, h.rom_mem, hagree, hbr.upper⟩
  have hdir := directionAt_of_conflict hconf
  rw [← h.rom_bits c h1 h64, hbr.upper] at hdir
  by_contra hlt
  rw [if_neg (by omega), if_pos (by omega)] at hdir
  exact Bool.noConfusion hdir

/-- Below `LCP` the pass takes the path of the one before it (R165). -/
theorem directionAt_eq_old (hheard : ∀ c, 1 ≤ c → c ≤ 64 → HeardAt ids s c) (h64 : s.lcp.toNat ≤ 64) {y : Identifier}
    (hy : y ∈ ids) (hbr : BranchesAt s.lcp.toNat s.rom y) :
    AgreeBelow s.lcp.toNat (wireBit s.rom) (directionAt s) := by
  intro k
  induction k using Nat.strong_induction_on with
  | _ k ih =>
    intro h1 hk
    by_cases hconf : conflictAt s k = true
    · rw [directionAt_of_conflict hconf, if_neg (by omega), if_neg (by omega)]
    · rw [hbr.agree k h1 hk]
      exact (hheard k h1 (by omega)).wireBit_eq_directionAt hconf hy
        ((hbr.agree.mono hk.le).symm.trans fun j hj hlt => ih j hlt hj (by omega))

/-- A pass leaves the path of the one before it at `LCP`, upwards. -/
theorem Found.branchesAt_lcp (h : Found ids s t) (hmem : s.rom ∈ ids) (h1 : 1 ≤ s.lcp.toNat) (h64 : s.lcp.toNat ≤ 64)
    {y : Identifier} (hy : y ∈ ids) (hbr : BranchesAt s.lcp.toNat s.rom y) : BranchesAt s.lcp.toNat s.rom t.rom := by
  have hold := directionAt_eq_old h.heard h64 hy hbr
  have hconf : conflictAt s s.lcp.toNat = true := (h.heard _ h1 h64).conflict_iff.2
    ⟨⟨s.rom, hmem, hold, hbr.lower⟩, y, hy, hbr.agree.symm.trans hold, hbr.upper⟩
  refine ⟨hold.trans (agreeBelow_of_bits h.rom_bits h64).symm, hbr.lower, ?_⟩
  rw [h.rom_bits _ h1 h64, directionAt_of_conflict hconf, if_pos rfl]

/-- The pass finds an identifier that was still to be found. -/
theorem Found.unfound (h : Found ids s t) (hres : Resumes ids s) : Unfound s t.rom := by
  refine or_iff_not_imp_left.2 fun hne => ?_
  obtain ⟨hmem, hlast⟩ := hres.resolve_left hne
  obtain ⟨h1, h64, y, hy, hbr⟩ := hlast.exists_branchesAt hne
  exact wireLess_iff_branchesAt.2 ⟨_, h1, h64, h.branchesAt_lcp hmem h1 h64 hy hbr⟩

/-- When `z` leaves the path of `x` at `L`, no `y` lies between the two that leaves the path of `x` at or before `L` and
is itself left by `z` at or before `L`. -/
theorem not_between {x y z : Identifier} {b c L : Nat} (hxz : BranchesAt L x z) (hxy : BranchesAt b x y)
    (hyz : BranchesAt c y z) (hb1 : 1 ≤ b) (hc1 : 1 ≤ c) (hb : b ≤ L) (hc : c ≤ L) : False := by
  obtain hcb | rfl | hbc := lt_trichotomy c b
  · have hx : wireBit x c = false := (hxy.agree c hc1 hcb).trans hyz.lower
    have hz : wireBit z c = false := (hxz.agree c hc1 (by omega)).symm.trans hx
    simp [hyz.upper] at hz
  · exact Bool.noConfusion (hxy.upper.symm.trans hyz.lower)
  · have hz : wireBit z b = true := (hyz.agree b hb1 hbc).symm.trans hxy.upper
    have hx : wireBit x b = true := (hxz.agree b hb1 (by omega)).trans hz
    simp [hxy.lower] at hx

/-- The pass finds the least identifier that was still to be found. -/
theorem Found.not_wireLess (h : Found ids s t) (hres : Resumes ids s)
    {y : Identifier} (hy : y ∈ ids) (hun : Unfound s y) : ¬ wireLess y t.rom := by
  intro hless
  obtain ⟨c, hc1, hc64, hyz⟩ := wireLess_iff_branchesAt.1 hless
  have hc := h.le_lcp_of_branchesAt hc1 hc64 hy hyz
  have hne : s.lcp ≠ 0 := by
    intro h0
    rw [h0] at hc
    exact absurd hc1 (by simpa using hc)
  obtain ⟨hmem, hlast⟩ := hres.resolve_left hne
  obtain ⟨b, hb1, hb64, hxy⟩ := wireLess_iff_branchesAt.1 (hun.resolve_left hne)
  have hb := hlast.le b hb1 hb64 y hy hxy
  obtain ⟨h1, h64, w, hw, hxw⟩ := hlast.exists_branchesAt hne
  exact not_between (h.branchesAt_lcp hmem h1 h64 hw hxw) hxy hyz hb1 hc1 hb hc

variable {u : Identifier} {post : List Identifier}

theorem SearchAt.found_head (hs : SearchAt ids s (u :: post)) (h : Found ids s t) : t.rom = u := by
  obtain hz | hz := List.mem_cons.1 ((hs.mem_iff t.rom).2 ⟨h.rom_mem, h.unfound hs.resumes⟩)
  · exact hz
  · obtain ⟨hu, hun⟩ := (hs.mem_iff u).1 List.mem_cons_self
    exact absurd (List.rel_of_pairwise_cons hs.sorted hz) (h.not_wireLess hs.resumes hu hun)

/-- What is left after a pass are the identifiers beyond the one it found. -/
theorem SearchAt.mem_tail_iff (hs : SearchAt ids s (u :: post)) (h : Found ids s t) (y : Identifier) :
    y ∈ post ↔ y ∈ ids ∧ wireLess t.rom y := by
  rw [hs.found_head h]
  constructor
  · intro hy
    exact ⟨((hs.mem_iff y).1 (.tail _ hy)).1, List.rel_of_pairwise_cons hs.sorted hy⟩
  · rintro ⟨hy, hless⟩
    obtain ⟨-, hun⟩ := (hs.mem_iff u).1 List.mem_cons_self
    have hmem := (hs.mem_iff y).2 ⟨hy, hun.imp_right (wireLess_trans · hless)⟩
    refine (List.mem_cons.1 hmem).resolve_left ?_
    rintro rfl
    exact wireLess_irrefl y hless

/-- The pass that finds the last identifier, and no other, leaves `LCP` at 0. -/
theorem SearchAt.lcp_eq_zero_iff (hs : SearchAt ids s (u :: post)) (h : Found ids s t) : t.lcp = 0 ↔ post = [] := by
  rw [h.last.eq_zero_iff, List.eq_nil_iff_forall_not_mem]
  simp only [hs.mem_tail_iff h, not_and]

theorem SearchAt.next (hs : SearchAt ids s (u :: post)) (h : Found ids s t) (hpost : post ≠ []) :
    SearchAt ids t post where
  ldf := h.ldf.trans (decide_eq_false fun h0 => hpost ((hs.lcp_eq_zero_iff h).1 h0))
  resumes := .inr ⟨h.rom_mem, h.last⟩
  sorted := hs.sorted.of_cons
  mem_iff y := by
    have hne : t.lcp ≠ 0 := fun h0 => hpost ((hs.lcp_eq_zero_iff h).1 h0)
    rw [hs.mem_tail_iff h, Unfound, or_iff_right hne]

/-- A fresh enumeration has all identifiers to find. -/
theorem searchAt_start (hlcp : s.lcp = 0) (hldf : s.ldf = false) {l : List Identifier} (hperm : l.Perm ids)
    (hsorted : l.Pairwise wireLess) : SearchAt ids s l where
  ldf := hldf
  resumes := .inl hlcp
  sorted := hsorted
  mem_iff y := by rw [hperm.mem_iff, and_iff_left (.inl hlcp)]

end

/-! ## The passes of an enumeration (R174) -/

theorem passStates_succ {s t : State} (h : exec .srchnxt s = .next t) (n : Nat) :
    passStates (n + 1) s = t :: passStates n t := by
  rw [passStates, h]

theorem history_passStates {n : Nat} {s u : State} (h : u ∈ passStates n s) : s.history <+: u.history := by
  induction n generalizing s with
  | zero => nomatch h
  | succ n ih =>
    obtain ⟨t, hexec⟩ := exec_next .srchnxt s
    rw [passStates_succ hexec] at h
    obtain rfl | h := List.mem_cons.1 h
    · exact history_exec hexec
    · exact (history_exec hexec).trans (ih h)

theorem newEvents_trans {s t u : State} (hst : s.history <+: t.history) (htu : t.history <+: u.history) :
    newEvents s u = newEvents s t ++ newEvents t u := by
  obtain ⟨es, hes⟩ := hst
  obtain ⟨fs, hfs⟩ := htu
  rw [newEvents_of_append hes.symm, newEvents_of_append hfs.symm]
  exact newEvents_of_append (by rw [← hfs, ← hes, List.append_assoc])

/-- What a run of passes that has `rest` to find leaves: the identifiers in that order, every checksum valid, the
terminal flag set by the last pass. -/
structure PassesFind (rest : List Identifier) (ts : List State) : Prop where
  roms : ts.map State.rom = rest
  codes : ∀ t ∈ ts, t.rcode = .ok
  flags : ∀ k t, ts[k]? = some t → t.ldf = decide (k + 1 = rest.length)

theorem PassesFind.cons {u : Identifier} {rest : List Identifier} {t : State} {ts : List State} (hrom : t.rom = u)
    (hcode : t.rcode = .ok) (hflag : t.ldf = decide (rest = [])) (h : PassesFind rest ts) :
    PassesFind (u :: rest) (t :: ts) where
  roms := by rw [List.map_cons, hrom, h.roms]
  codes := List.forall_mem_cons.2 ⟨hcode, h.codes⟩
  flags := by
    rintro (_ | k) t' ht'
    · obtain rfl : t = t' := by simpa using ht'
      simp [hflag]
    · simpa using h.flags k t' (by simpa using ht')

theorem passes_find {ids rest : List Identifier} (hvalid : ∀ x ∈ ids, crc8 x = 0) (hne : rest ≠ []) {ds : List Device}
    (hids : ds.map Device.id = ids) {s last : State} (hs : SearchAt ids s rest)
    (hlast : (passStates rest.length s).getLast? = some last) (hexp : explains ds (newEvents s last) = true) :
    PassesFind rest (passStates rest.length s) := by
  induction rest generalizing ds s with
  | nil => exact absurd rfl hne
  | cons u post ih =>
    obtain ⟨t, hexec⟩ := exec_next .srchnxt s
    have hmem := List.mem_of_getLast? hlast
    rw [List.length_cons, passStates_succ hexec] at hlast hmem ⊢
    have hgrows : t.history <+: last.history := by
      obtain rfl | hmem := List.mem_cons.1 hmem
      · exact List.prefix_rfl
      · exact history_passStates hmem
    rw [newEvents_trans (history_exec hexec) hgrows] at hexp
    obtain ⟨ds', hobs, hexp'⟩ := explains_append hexp
    have hds : ds ≠ [] := by
      rintro rfl
      obtain rfl : [] = ids := hids
      exact absurd ((hs.mem_iff u).1 List.mem_cons_self).1 (List.not_mem_nil)
    have hfound : Found ids s t := hids ▸ found_of_explains hds hs.ldf hexec (by rw [explains, hobs]; rfl)
    refine .cons (hs.found_head hfound) ?_ ?_ ?_
    · rw [hfound.rcode, if_pos (hvalid _ hfound.rom_mem)]
    · simp only [hfound.ldf, hs.lcp_eq_zero_iff hfound]
    · cases post with
      | nil => exact ⟨rfl, by simp [passStates], by simp [passStates]⟩
      | cons v post =>
        obtain ⟨t', hexec'⟩ := exec_next .srchnxt t
        refine ih (by simp) ((ids_of_observeAll hobs).trans hids) (hs.next hfound (by simp)) ?_ hexp'
        rw [List.length_cons, passStates_succ hexec'] at hlast ⊢
        rwa [List.getLast?_cons_cons] at hlast

/-- Settles O36: the passes find the sorted list of the identifiers, head by head. -/
theorem enumerationIsComplete : Obligations.EnumerationIsComplete := by
  intro ds s s0 last hne hnodup hvalid hrst hlast hexp
  obtain ⟨l, hperm, hsorted⟩ := exists_sorted hnodup
  obtain rfl := Host.Outcome.next.inj hrst
  have hlen : l.length = ds.length := by simpa using hperm.length_eq
  rw [← hlen] at hlast ⊢
  have hl : l ≠ [] := fun h0 => hne (List.length_eq_zero_iff.1 (by rw [← hlen, h0]; rfl))
  have h := passes_find (by simpa using hvalid) hl rfl (searchAt_start rfl rfl hperm hsorted) hlast hexp
  refine ⟨?_, ?_, ?_, h.codes, h.flags⟩
  · simpa using congrArg List.length h.roms
  · rwa [h.roms]
  · rwa [h.roms]

end Sys2Proof.Machine
end

section
/-! The device session family, the commands: `SELECT` and `CONVRD` over every form of the selector, the further polls
of a `CONVRD` in flight, and `TDEC`, from the laws of a session in `Laws/Session`. -/

namespace Sys2Proof.Machine

/-! ## A command over its selector (R96, R97) -/

/-- What a selector command does on the buffer, on every legal entry and on an illegal index, from what its body does
on an identifier. -/
theorem withSelected_forms {body after : Identifier → State → State} (s : State)
    (h : ∀ id, body id s = after id s) :
    withSelected .rom body s = after s.rom s ∧
    (∀ (idx : BitVec 7) (hm : idx.toNat < Config.maxDev), idx.toNat < s.nrec.toNat →
      withSelected (.entry idx) body s = after (s.record[idx.toNat]'hm) s) ∧
    ∀ idx : BitVec 7, s.nrec.toNat ≤ idx.toNat → withSelected (.entry idx) body s = s.reject :=
  ⟨h s.rom, fun _ hm hn => (withSelected_of_some (selected_entry hn hm) body).trans (h _),
    fun _ hn => withSelected_of_none (selected_illegal hn) body⟩

/-! ## `SELECT` (R191) -/

/-- What `SELECT` leaves for an identifier. -/
def afterSelect (id : Identifier) (s : State) : State :=
  { s.bus (if s.level 0 then [.rst false] else selectedEvents id) with
    pres := !s.level 0, rcode := if s.level 0 then .busAbsent else .ok, inflight := none }

theorem selectCommand_eq (id : Identifier) (s : State) : selectCommand id s = afterSelect id s := by
  rw [selectCommand, selectDevice_eq, afterSelect]
  cases s.level 0
  case false => simp [State.finish]
  case true => simp [State.finish]

/-- Settles O37: `selectCommand_eq` on each form of the selector; an entry's word is the encoder's. -/
theorem selectEffect : Obligations.SelectEffect := by
  refine ⟨decode_encode .selectRom, fun n => ?_, fun s => ?_⟩
  · exact (congrArg decode (add_setWidth_eq_entryWord 0x09 n)).trans (decode_encode (.selectRec n))
  · obtain ⟨hrom, hentry, hillegal⟩ := withSelected_forms s (selectCommand_eq · s)
    exact ⟨congrArg _ hrom, fun idx hm hn => congrArg _ (hentry idx hm hn),
      fun idx hn => congrArg _ (hillegal idx hn)⟩

/-! ## The first step of `CONVRD` (R200 to R203) -/

/-- A `CONVRD` that goes on polling after the slots `es`. -/
def polling (id : Identifier) (es : List Event) (s : State) : State :=
  { s.bus es with inflight := some (.poll id) }

/-- A session whose second selection sees presence: after the slots `es`, the poll of 1 is sample `k`. -/
def afterSession (id : Identifier) (es : List Event) (k : Nat) (s : State) : State :=
  { s.bus (es ++ (.r true :: readSessionEvents id s (k + 1))) with
    sp0 := byteAt s (k + 2), sp1 := byteAt s (k + 10), rcode := .ok, inflight := none }

/-- The three outcomes of a poll that follows the slots `es` and is sample `k`. -/
def afterPoll (id : Identifier) (es : List Event) (k : Nat) (s : State) : State :=
  if !s.level k then polling id (es ++ [.r false]) s
  else if s.level (k + 1) then { s.bus (es ++ [.r true, .rst false]) with rcode := .busAbsent, inflight := none }
  else afterSession id es k s

/-- The slots of a `CONVRD` before its first poll. -/
def convertEvents (id : Identifier) : List Event := selectedEvents id ++ wroteByte Config.cmdConvert

/-- What `CONVRD` leaves for an identifier at the end of its first step. -/
def afterConvert (id : Identifier) (s : State) : State :=
  if s.level 0 then { s.bus [.rst false] with rcode := .busAbsent, inflight := none }
  else afterPoll id (convertEvents id) 1 s

theorem askCount_convertEvents (id : Identifier) : askCount (convertEvents id) = 1 := by
  rw [convertEvents, askCount_append, selectedEvents_asks, wroteByte, askCount_writes]

theorem convertCommand_eq_afterConvert (id : Identifier) (s : State) : convertCommand id s = afterConvert id s := by
  rw [convertCommand_eq, ← convertEvents, pollStep_bus s _ id (askCount_convertEvents id)]
  rfl

/-- Settles O40: `convertCommand_eq_afterConvert` on each form of the selector. -/
theorem convrdEffect : Obligations.ConvrdEffect := by
  intro s
  obtain ⟨hrom, hentry, hillegal⟩ := withSelected_forms s (convertCommand_eq_afterConvert · s)
  exact ⟨congrArg _ hrom, fun idx hm hn => congrArg _ (hentry idx hm hn),
    fun idx hn => congrArg _ (hillegal idx hn)⟩

/-! ## Further polls of a `CONVRD` in flight (R201 to R204) -/

theorem pollStep_bus_nil (id : Identifier) (s : State) : pollStep id (s.bus []) = pollStep id s := by
  simp [pollStep_eq, State.bus_bus, State.level_bus]

theorem step_poll {s : State} {id : Identifier} (hhost : s.host = []) (hpoll : s.inflight = some (.poll id)) :
    step s = .next (pollStep id s) := by
  rw [step_no_move hhost, proceed, hpoll]
  rfl

/-- Settles O41: `pollStep_bus` after no slot; a poll of 0 leaves the command in flight as it was. -/
theorem pollEffect : Obligations.PollEffect := by
  intro s id hhost hpoll
  rw [step_poll hhost hpoll, ← pollStep_bus_nil, pollStep_bus s [] id askCount_nil, ← hpoll]
  rfl

theorem step_poll_low {s : State} {id : Identifier} (hhost : s.host = []) (hpoll : s.inflight = some (.poll id))
    (hlow : s.level 0 = false) : step s = .next (s.bus [.r false]) := by
  rw [pollEffect s id hhost hpoll, hlow]
  rfl

theorem level_bus_r (b : Bool) (s : State) (k : Nat) : (s.bus [.r b]).level k = s.level (k + 1) := by
  rw [State.level_bus, Nat.add_comm]
  rfl

theorem bus_nil {s : State} (hline : s.drv = false) : s.bus [] = s := by
  simp [State.bus, ← hline]

/-- Settles O43: by induction on the steps; each is a poll of 0, after which the state polls as before. -/
theorem pollHasNoTimeout : Obligations.PollHasNoTimeout := by
  intro n s id hhost hpoll hline hlow
  refine ⟨?_, congrArg Option.isSome hpoll⟩
  induction n generalizing s with
  | zero => exact congrArg Host.Outcome.next (bus_nil hline).symm
  | succ n ih =>
    have hlow' : StuckLow n (s.bus [.r false]) := fun k hk => (level_bus_r ..).trans (hlow (k + 1) (by omega))
    rw [run_succ (step_poll_low hhost hpoll (hlow 0 (by omega))), ih (s.bus [.r false]) hhost hpoll rfl hlow',
      State.bus_bus]
    rfl

/-! ## A whole session (R200, R281) -/

theorem step_polling (id : Identifier) {es : List Event} {k : Nat} {s : State} (hhost : s.host = [])
    (hk : askCount es = k) : step (polling id es s) = .next (afterPoll id es k s) :=
  (step_poll (s := polling id es s) hhost rfl).trans
    (congrArg _ (pollStep_bus { s with inflight := some (.poll id) } es id hk))

theorem afterPoll_low (id : Identifier) (es : List Event) {k : Nat} {s : State} (hlow : s.level k = false) :
    afterPoll id es k s = polling id (es ++ [.r false]) s := by
  rw [afterPoll, hlow]
  rfl

theorem afterPoll_ready (id : Identifier) (es : List Event) {k : Nat} {s : State} (hready : s.level k = true)
    (hpres : s.level (k + 1) = false) : afterPoll id es k s = afterSession id es k s := by
  rw [afterPoll, hready, hpres]
  rfl

/-- The `n` polls of 0 still to come, then the poll of 1 and the session's end. -/
theorem run_afterPoll (id : Identifier) {s : State} (hhost : s.host = []) (n : Nat) {es : List Event} {k : Nat}
    (hk : askCount es = k) (hlow : ∀ j, k ≤ j → j < k + n → s.level j = false) (hready : s.level (k + n) = true)
    (hpres : s.level (k + n + 1) = false) :
    Host.Core.run Sys2Proof.core n (afterPoll id es k s) =
      .next (afterSession id (es ++ List.replicate n (.r false)) (k + n) s) := by
  induction n generalizing es k with
  | zero =>
    rw [List.replicate_zero, List.append_nil]
    exact congrArg Host.Outcome.next (afterPoll_ready id es hready hpres)
  | succ n ih =>
    have hk' : askCount (es ++ [.r false]) = k + 1 := by
      rw [askCount_append, hk]
      rfl
    have hn : k + (n + 1) = k + 1 + n := by omega
    rw [hn] at hlow hready hpres
    rw [afterPoll_low id es (hlow k (by omega) (by omega)), run_succ (step_polling id hhost hk'),
      ih hk' (fun j h => hlow j (by omega)) hready hpres, hn, List.append_assoc]
    rfl

theorem wroteByte_length (v : Byte) : (wroteByte v).length = 8 := by
  rw [wroteByte, List.length_map, byteBits_length]

theorem selectedEvents_length (id : Identifier) : (selectedEvents id).length = 73 := by
  simp [selectedEvents, wroteByte_length, wroteIdentifier, identifierBits_length]

theorem readSessionEvents_length (id : Identifier) (s : State) (k : Nat) : (readSessionEvents id s k).length = 98 := by
  simp [readSessionEvents, selectedEvents_length, wroteByte_length, readAt, State.levels]

/-- Settles O42: the first step by `convrdEffect`, the polls of 0 and the last one by `run_afterPoll`. -/
theorem sessionCompletes : Obligations.SessionCompletes := by
  intro s k hhost hfirst hlow hready hpres events after
  obtain ⟨hrom, hentry, -⟩ := convrdEffect s
  have hrun (id : Identifier) : Host.Core.run Sys2Proof.core k (afterConvert id s) = .next (after id) := by
    rw [Nat.add_comm] at hready
    rw [afterConvert, hfirst, if_neg Bool.false_ne_true, run_afterPoll id hhost k (askCount_convertEvents id)
      (fun j h1 h2 => hlow j h1 (by omega)) hready (by rw [Nat.add_comm 1]; exact hpres)]
    simp only [afterSession, convertEvents, List.append_assoc, Nat.add_comm 1]
    rfl
  refine ⟨⟨_, hrom, hrun s.rom⟩, fun idx hm hn => ⟨_, hentry idx hm hn, hrun _⟩, fun id => ?_⟩
  simp only [events, List.length_append, List.length_cons, List.length_replicate, selectedEvents_length,
    wroteByte_length, readSessionEvents_length]
  omega

/-! ## `TDEC` (R210, R211) -/

/-- The nibble splice, plus the half-degree bit. -/
theorem toNat_decodeTemp (lo hi : Byte) :
    (decodeTemp lo hi).toNat = ((hi.toNat % 16) * 16 + lo.toNat / 16 + (lo.toNat / 8) % 2) % 256 := by
  have hsplice : (hi.extractLsb' 0 4 ++ lo.extractLsb' 4 4 : Byte).toNat = hi.toNat % 16 * 16 + lo.toNat / 16 := by
    have hlo := lo.isLt
    rw [BitVec.toNat_append, ← Nat.shiftLeft_add_eq_or_of_lt (BitVec.isLt _), Nat.shiftLeft_eq,
      BitVec.extractLsb'_toNat, BitVec.extractLsb'_toNat, Nat.shiftRight_eq_div_pow, Nat.shiftRight_eq_div_pow]
    omega
  have hhalf : lo.getLsbD 3 = decide (lo.toNat / 8 % 2 = 1) := by
    rw [BitVec.getLsbD, Nat.testBit_eq_decide_div_mod_eq]
  have hlo := lo.isLt
  rw [decodeTemp, hhalf]
  by_cases h : lo.toNat / 8 % 2 = 1
  · simp only [h, decide_true, if_true, BitVec.toNat_add, hsplice]
    rfl
  · simp only [h, decide_false, Bool.false_eq_true, if_false, hsplice]
    omega

theorem exec_tdec (s : State) :
    exec .tdec s = .next { s with temp := decodeTemp s.sp0 s.sp1, rcode := .ok, inflight := none } := rfl

/-- Settles O44: `TEMP` is the decoded temperature, whose value is `toNat_decodeTemp`. -/
theorem tdecEffect : Obligations.TdecEffect :=
  ⟨decode_encode .tdec, fun s => ⟨_, toNat_decodeTemp s.sp0 s.sp1, exec_tdec s⟩⟩

/-- The splice rounds: adding 8 to the pair carries exactly the half-degree bit into the degrees. -/
theorem decodeTemp_eq_ofInt (lo hi : Byte) :
    decodeTemp lo hi = BitVec.ofInt 8 (((hi ++ lo : BitVec 16).toInt + 8) / 16) := by
  have hlo := lo.isLt
  have hhi := hi.isLt
  apply BitVec.eq_of_toNat_eq
  rw [toNat_decodeTemp, BitVec.toNat_ofInt, BitVec.toInt_eq_toNat_cond, toNat_opcode_append]
  split
  case isTrue => omega
  case isFalse => omega

/-- Settles O45: `decodeTemp_eq_ofInt`; a value of -128 to 127 is its own byte. -/
theorem tdecRoundsToNearest : Obligations.TdecRoundsToNearest := by
  intro s
  refine ⟨_, exec_tdec s, decodeTemp_eq_ofInt s.sp0 s.sp1, fun hlow hhigh => ?_⟩
  refine (congrArg BitVec.toInt (decodeTemp_eq_ofInt s.sp0 s.sp1)).trans ?_
  exact BitVec.toInt_ofInt_eq_self (by decide) hlow (Int.lt_add_one_iff.2 hhigh)

end Sys2Proof.Machine
end

section
/-! The device session family, the enumeration: an iteration of `ENUM` told by the commands it is made of, and the
answers under which there is always another one. -/

namespace Sys2Proof.Machine

/-! ## One iteration (R215 to R219) -/

theorem searchPass_code (s : State) :
    ((searchPass s).1 = .ok ∨ (searchPass s).1 = .crcMismatch) ∨
      (searchPass s).1 = .busAbsent ∨ (searchPass s).1 = .searchAnomaly := by
  obtain ⟨-, h⟩ | ⟨-, -, h⟩ | ⟨k, -, -, -, -, h⟩ := searchPass_cases s <;> rw [h]
  · exact .inr (.inl rfl)
  · left
    rw [crcCode]
    split
    case isTrue => exact .inl rfl
    case isFalse => exact .inr rfl
  · exact .inr (.inr rfl)

theorem rcode_completePass (lastZero : Nat) (s : State) : (completePass lastZero s).rcode = s.rcode := rfl

/-- A pass leaves `RCODE` to the command it is part of. -/
theorem rcode_searchPass (s : State) : (searchPass s).2.rcode = s.rcode := by
  have hpass (n : Nat) : (passState s n).rcode = s.rcode := rfl
  obtain ⟨-, h⟩ | ⟨-, -, h⟩ | ⟨k, -, -, -, -, h⟩ := searchPass_cases s <;> rw [h]
  · rfl
  · exact (rcode_completePass _ _).trans (hpass 64)
  · rfl

section
variable {s : State} (hmore : enumMore s = true)
include hmore

theorem enumStep_failed (h : (searchPass s).1 = .busAbsent ∨ (searchPass s).1 = .searchAnomaly) :
    enumStep s = (searchPass s).2.finish (searchPass s).1 := by
  rw [enumStep, if_pos hmore]
  generalize searchPass s = p at h
  obtain ⟨c, t⟩ := p
  obtain rfl | rfl : c = _ ∨ c = _ := h
  · rfl
  · rfl

theorem enumStep_found (h : (searchPass s).1 = .ok ∨ (searchPass s).1 = .crcMismatch) :
    enumStep s = enumNext (recordFound (searchPass s).2) := by
  rw [enumStep, if_pos hmore]
  generalize searchPass s = p at h
  obtain ⟨c, t⟩ := p
  obtain rfl | rfl : c = _ ∨ c = _ := h
  · rfl
  · rfl

end

/-- The end of an iteration, whatever the commands it is made of left in `RCODE`. -/
theorem enumNext_eq_afterIteration (c : ResultCode) (t : State) : enumNext t = afterIteration t.rcode (t.finish c) := by
  simp only [enumNext, afterIteration, enumMore_iff, State.done_eq, State.finish_nrec, State.finish_ldf]
  rfl

theorem recordFound_foreign {t : State} (h : t.rom[7] ≠ Config.family) : recordFound t = t := if_neg h

/-- The slots of a configuration write, by its presence answer (R213). -/
def configSlots (id : Identifier) (s : State) : List Event :=
  if s.level 0 then [.rst false] else configuredEvents id

theorem configure_snd (id : Identifier) (s : State) : (configure id s).2 = s.bus (configSlots id s) := by
  rw [configure_eq, configSlots]
  cases s.level 0
  case false => rfl
  case true => rfl

theorem configCommand_eq (id : Identifier) (s : State) :
    configCommand id s = (s.bus (configSlots id s)).finish (if s.level 0 then .busAbsent else .ok) := by
  rw [configCommand, configure_eq, configSlots]
  cases s.level 0
  case false => simp
  case true => simp

/-- A device of the family becomes entry `NREC` and is configured. -/
theorem recordFound_family {t : State} (hfam : t.rom[7] = Config.family) (hroom : t.nrec.toNat < Config.maxDev) :
    recordFound t = { t.bus (configSlots t.rom t) with
      nrec := t.nrec + 1, record := t.record.set t.nrec.toNat t.rom hroom } := by
  have hset : t.record.setIfInBounds t.nrec.toNat t.rom = t.record.set t.nrec.toNat t.rom hroom := by
    simp [Vector.setIfInBounds, Vector.set, Array.setIfInBounds, hroom]
  rw [recordFound, if_pos hfam, configure_snd, hset]
  rfl

/-- The configuration of a found device is what `CFGDEV ROM` does after `SRCHNXT`. -/
theorem enumNext_recordFound_family {t : State} (c : ResultCode) (hfam : t.rom[7] = Config.family) {n : Byte}
    {r : Vector Identifier Config.maxDev} (hn : t.nrec = n) (hr : t.record = r) (hroom : n.toNat < Config.maxDev) :
    enumNext (recordFound t) = afterIteration t.rcode
      { configCommand t.rom (t.finish c) with nrec := n + 1, record := r.set n.toNat t.rom hroom } := by
  subst hn hr
  rw [enumNext_eq_afterIteration (if t.level 0 then .busAbsent else .ok), recordFound_family hfam hroom,
    configCommand_eq]
  rfl

/-- One iteration with room and a clear terminal flag, by what `SRCHNXT` and `CFGDEV ROM` do. -/
theorem enumStep_eq {s : State} (hroom : s.nrec.toNat < Config.maxDev) (hldf : s.ldf = false) :
    ∃ u, exec .srchnxt s = .next u ∧
      (u.rcode = .busAbsent ∨ u.rcode = .searchAnomaly → enumStep s = u) ∧
      (u.rcode = .ok ∨ u.rcode = .crcMismatch → u.rom[7] ≠ Config.family → enumStep s = afterIteration s.rcode u) ∧
      (u.rcode = .ok ∨ u.rcode = .crcMismatch → u.rom[7] = Config.family →
        ∃ v, exec .cfgdevRom u = .next v ∧ enumStep s = afterIteration s.rcode
          { v with nrec := s.nrec + 1, record := s.record.set s.nrec.toNat u.rom hroom }) ∧
      (u.rcode = .ok ∨ u.rcode = .crcMismatch ∨ u.rcode = .busAbsent ∨ u.rcode = .searchAnomaly) := by
  have hmore := (enumMore_iff s).2 ⟨hroom, hldf⟩
  have hframe := sameRecord_searchPass s
  refine ⟨_, exec_srchnxt hldf, enumStep_failed hmore, fun h hforeign => ?_, fun h hfam => ⟨_, rfl, ?_⟩,
    or_assoc.1 (searchPass_code s)⟩
  · rw [enumStep_found hmore h, recordFound_foreign (t := (searchPass s).2) hforeign,
      enumNext_eq_afterIteration (searchPass s).1, rcode_searchPass]
  · rw [enumStep_found hmore h,
      enumNext_recordFound_family (t := (searchPass s).2) (searchPass s).1 hfam hframe.nrec hframe.record hroom,
      rcode_searchPass]
    rfl

theorem exec_enumerate (s : State) :
    exec .enumerate s = .next (enumStep { s with nrec := 0, lcp := 0, ldf := false, sst := .idle }) := rfl

/-- Settles O46: `enumStep_eq` on the state with the record and the search state cleared. -/
theorem enumEffect : Obligations.EnumEffect := by
  intro s
  simp only [exec_enumerate, Host.Outcome.next.injEq]
  exact enumStep_eq (s := { s with nrec := 0, lcp := 0, ldf := false, sst := .idle }) (show 0 < 3 by decide) rfl

theorem step_enumerating {s : State} (hhost : s.host = []) (henum : s.inflight = some .enumerate) :
    step s = .next (enumStep s) := by
  rw [step_no_move hhost, proceed, henum]
  rfl

/-- Settles O47: `enumStep_eq` on the state the last iteration left. -/
theorem enumIteration : Obligations.EnumIteration := by
  intro s hroom hhost henum hldf
  simp only [step_enumerating hhost henum, Host.Outcome.next.injEq]
  exact enumStep_eq hroom hldf

end Sys2Proof.Machine
end

section
/-! The device session family, the enumeration that need not end: passes with presence, one conflict and otherwise
forced zeros, the conflict never where the pass before it had its own. -/

namespace Sys2Proof.Machine

/-! ## A pass with one conflict (R164 to R167) -/

/-- The answers of a pass: presence, the pair `(0,0)` at position `c` and `(0,1)` at every other. -/
structure OneConflict (s : State) (c : Nat) : Prop where
  presence : s.level 0 = false
  pairA : ∀ k, 1 ≤ k → k ≤ 64 → pairA s k = false
  pairB : ∀ k, 1 ≤ k → k ≤ 64 → pairB s k = decide (k ≠ c)

/-- A conflict at `c` will be resolved to 0 (R165). -/
def ZeroBranch (s : State) (c : Nat) : Prop :=
  c ≠ s.lcp.toNat ∧ (s.lcp.toNat < c ∨ wireBit s.rom c = false)

section
variable {s : State} {c : Nat} (h : OneConflict s c)
include h

theorem OneConflict.not_silent {k : Nat} (h1 : 1 ≤ k) (h64 : k ≤ 64) : silentAt s k = false := by
  rw [silentAt, h.pairA k h1 h64, Bool.false_and]

theorem OneConflict.conflictAt_eq {k : Nat} (h1 : 1 ≤ k) (h64 : k ≤ 64) : conflictAt s k = decide (k = c) := by
  rw [conflictAt, h.pairA k h1 h64, h.pairB k h1 h64]
  simp

theorem OneConflict.directionAt_eq (hzero : ZeroBranch s c) {k : Nat} (h1 : 1 ≤ k) (h64 : k ≤ 64) :
    directionAt s k = false := by
  rw [directionAt, h.conflictAt_eq h1 h64]
  by_cases hk : k = c
  · subst hk
    obtain ⟨hne, hlt | hold⟩ := hzero
    · simp [hne, hlt]
    · simp [hne, hold]
  · simp [hk, h.pairA k h1 h64]

theorem OneConflict.passLast_eq (hzero : ZeroBranch s c) (h1 : 1 ≤ c) (h64 : c ≤ 64) : passLast s 64 = c := by
  have hconf : conflictAt s c = true := by rw [h.conflictAt_eq h1 h64, decide_eq_true rfl]
  have hle := le_passLast s h1 h64 hconf (h.directionAt_eq hzero h1 h64)
  obtain h0 | ⟨hpos, hlast, -⟩ := passLast_cases s 64
  · omega
  · rw [h.conflictAt_eq hpos (passLast_le s 64)] at hlast
    exact of_decide_eq_true hlast

theorem OneConflict.passRom_eq (hzero : ZeroBranch s c) : passRom s 64 = Vector.replicate 8 0 := by
  refine identifier_ext_wireBit fun k h1 h64 => ?_
  rw [wireBit_passRom s (Nat.le_refl 64) h1 h64, if_pos h64, h.directionAt_eq hzero h1 h64]
  simp [wireBit]

theorem OneConflict.searchPass_eq (hzero : ZeroBranch s c) (h1 : 1 ≤ c) (h64 : c ≤ 64) :
    searchPass s = (.ok, completePass c (passState s 64)) := by
  rw [searchPass_complete s h.presence fun k => h.not_silent, h.passLast_eq hzero h1 h64, h.passRom_eq hzero,
    crcCode_eq, if_pos crc8_replicate_zero]

end

/-- What an iteration of `ENUM` on such a pass leaves: nothing recorded, the buffer all zero, another to come. -/
structure SkippedAt (c : Nat) (s t : State) : Prop where
  host : t.host = s.host
  nrec : t.nrec = s.nrec
  ldf : t.ldf = false
  lcp : t.lcp = BitVec.ofNat 7 c
  rom : t.rom = Vector.replicate 8 0
  inflight : t.inflight = some .enumerate
  level : ∀ k, t.level k = s.level (129 + k)

theorem level_wholePass (s : State) (k : Nat) : (passState s 64).level k = s.level (129 + k) :=
  (level_passState s 64 k).trans (congrArg s.level (by omega))

theorem skippedAt_completePass {c : Nat} {s u : State} (h1 : 1 ≤ c) (hframe : SameRecord s u)
    (hrom : u.rom = Vector.replicate 8 0) (hlevel : ∀ k, u.level k = s.level (129 + k)) :
    SkippedAt c s { completePass c u with inflight := some .enumerate } where
  host := hframe.host
  nrec := hframe.nrec
  ldf := decide_eq_false (by omega)
  lcp := rfl
  rom := hrom
  inflight := rfl
  level := hlevel

theorem OneConflict.skippedAt_enumStep {s : State} {c : Nat} (h : OneConflict s c) (hzero : ZeroBranch s c)
    (h1 : 1 ≤ c) (h64 : c ≤ 64) (hroom : s.nrec.toNat < Config.maxDev) (hldf : s.ldf = false) :
    SkippedAt c s (enumStep s) := by
  have hskipped := skippedAt_completePass h1 (sameRecord_passState s 64) (h.passRom_eq hzero) (level_wholePass s)
  have hpass := h.searchPass_eq hzero h1 h64
  generalize completePass c (passState s 64) = t at hskipped hpass
  have hforeign : t.rom[7] ≠ Config.family := by
    rw [show t.rom = Vector.replicate 8 0 from hskipped.rom, Vector.getElem_replicate]
    decide
  have hgoes : enumMore t = true := (enumMore_iff t).2 ⟨by rwa [show t.nrec = s.nrec from hskipped.nrec], hskipped.ldf⟩
  have hstep := enumStep_found ((enumMore_iff s).2 ⟨hroom, hldf⟩) (by rw [hpass]; exact .inl rfl)
  rw [hpass, recordFound_foreign (t := t) hforeign, enumNext, if_pos hgoes] at hstep
  rwa [hstep]

/-! ## The answers (R222) -/

/-- Where pass `p` has its conflict: at 64 and at 63 in turn. -/
def conflictOf (p : Nat) : Nat := 64 - p % 2

/-- Answer `r` of pass `p`: high at the second sample of every pair but the conflict's. -/
def loopAnswer (p r : Nat) : Bool := decide (r ≠ 0 ∧ r % 2 = 0 ∧ r ≠ 2 * conflictOf p)

/-- The state before pass `p`, whose answers and those of the next `m - 1` passes are the loop's. -/
structure Looping (p m : Nat) (s : State) : Prop where
  host : s.host = []
  nrec : s.nrec = 0
  ldf : s.ldf = false
  zeroBranch : ZeroBranch s (conflictOf p)
  answers : ∀ q r, q < m → r < 129 → s.level (129 * q + r) = loopAnswer (p + q) r

theorem Looping.oneConflict {p m : Nat} {s : State} (h : Looping p (m + 1) s) : OneConflict s (conflictOf p) := by
  have hlevel (r : Nat) (hr : r < 129) : s.level r = loopAnswer p r := by
    simpa using h.answers 0 r (by omega) hr
  refine ⟨hlevel 0 (by omega), fun k h1 h64 => ?_, fun k h1 h64 => ?_⟩
  · rw [pairA, hlevel _ (by omega)]
    exact decide_eq_false (by omega)
  · rw [pairB, hlevel _ (by omega)]
    exact decide_eq_decide.2 (by omega)

/-- The next pass will resolve its conflict to 0 too: the buffer is all zero, and `LCP` is where this pass had its
own. -/
theorem Looping.next {p m : Nat} {s : State} (h : Looping p (m + 1) s) :
    Looping (p + 1) m (enumStep s) ∧ (enumStep s).inflight = some .enumerate := by
  have h1 : 1 ≤ conflictOf p := by unfold conflictOf; omega
  have h64 : conflictOf p ≤ 64 := by unfold conflictOf; omega
  have hmoved : conflictOf (p + 1) ≠ conflictOf p := by unfold conflictOf; omega
  have hroom : s.nrec.toNat < Config.maxDev := by rw [h.nrec]; decide
  have hlcp : (BitVec.ofNat 7 (conflictOf p)).toNat = conflictOf p := Nat.mod_eq_of_lt (by omega)
  have hskip := h.oneConflict.skippedAt_enumStep h.zeroBranch h1 h64 hroom h.ldf
  refine ⟨⟨hskip.host.trans h.host, hskip.nrec.trans h.nrec, hskip.ldf, ⟨?_, .inr ?_⟩, fun q r hq hr => ?_⟩,
    hskip.inflight⟩
  · rwa [hskip.lcp, hlcp]
  · rw [hskip.rom]
    simp [wireBit]
  · rw [hskip.level, ← Nat.add_assoc, Nat.add_comm 129, ← Nat.mul_succ, h.answers (q + 1) r (by omega) hr,
      Nat.add_right_comm, Nat.add_assoc]

/-- The `n` steps after the iteration of pass `p`. -/
theorem Looping.run_enumStep {n p : Nat} {s : State} (h : Looping p (n + 1) s) :
    ∃ t, Host.Core.run Sys2Proof.core n (enumStep s) = .next t ∧ t.busy = true ∧ t.nrec = 0 := by
  obtain ⟨hnext, henum⟩ := h.next
  induction n generalizing p s with
  | zero => exact ⟨_, rfl, congrArg Option.isSome henum, hnext.nrec⟩
  | succ n ih =>
    rw [run_succ (step_enumerating hnext.host henum)]
    obtain ⟨hnext', henum'⟩ := hnext.next
    exact ih hnext hnext' henum'

theorem step_command {i : Instr} {rest : List HostMove} {s : State} (hhost : s.host = .write 0xFF (encode i) :: rest)
    (hidle : s.busy = false) : step s = exec i { s with host := rest } := by
  rw [step_write_idle hhost hidle, hostWrite, if_pos rfl, acceptWord, decode_encode]

/-- Settles O48: the answers of a cycle of two passes, where V75 gives one of three; `Looping` holds before the first
pass and every pass keeps it, by `Looping.next`. -/
theorem enumNeedNotEnd : Obligations.EnumNeedNotEnd := by
  refine ⟨fun k => loopAnswer (k / 129) (k % 129), fun s n hhost hidle hans => ?_⟩
  rw [run_succ ((step_command hhost hidle).trans (exec_enumerate _))]
  refine Looping.run_enumStep (p := 0) ⟨rfl, rfl, rfl, ⟨?_, .inl ?_⟩, fun q r hq hr => ?_⟩
  · exact show 64 ≠ 0 by decide
  · exact show 0 < 64 by decide
  · have hpass : (129 * q + r) / 129 = 0 + q := by omega
    have hsample : (129 * q + r) % 129 = r := by omega
    refine (hans (129 * q + r) (by omega)).trans ?_
    simp only [hpass, hsample]

end Sys2Proof.Machine
end

section
/-! The exceptions family: the codes each command can leave in `RCODE`, a step of an idle controller without a move,
and that no step stops the machine. -/

namespace Sys2Proof.Machine

/-! ## Result codes (R232) -/

/-- What R232 lets command `i` leave in `RCODE`: the old code while it is in flight, or one of its own. -/
def CodeAllowed (i : Instr) (s t : State) : Prop :=
  (t.inflight.isSome = true ∧ mayHang i = true ∧ t.rcode = s.rcode) ∨ t.rcode ∈ resultCodes i

/-- A `REC[n]` form has the codes of its `ROM` form, and `ILLEGAL` for a rejected index (R97). -/
theorem CodeAllowed.withSelected {rom entry : Instr} {body : Identifier → State → State} {s : State} {sel : Selector}
    (hbody : ∀ id, CodeAllowed rom s (body id s)) (hhang : mayHang entry = mayHang rom)
    (hcodes : resultCodes entry = resultCodes rom ++ [.illegal]) : CodeAllowed entry s (withSelected sel body s) := by
  rw [CodeAllowed, hhang, hcodes]
  obtain h | ⟨id, h⟩ := withSelected_cases sel body s <;> rw [h]
  · exact .inr (List.mem_append_right _ List.mem_cons_self)
  · exact (hbody id).imp_right (List.mem_append_left _)

/-- The code a reset slot decides, by its sample (R122, R191, R213). -/
theorem presenceCode_mem (absent : Bool) :
    (if absent then .busAbsent else .ok) ∈ [ResultCode.ok, ResultCode.busAbsent] := by
  cases absent
  case false => exact List.mem_cons_self
  case true => exact List.mem_cons_of_mem _ List.mem_cons_self

theorem codeAllowed_crcCommand (id : Identifier) (s : State) : CodeAllowed .crc8Rom s (crcCommand id s) := by
  refine .inr ?_
  rw [crcCommand, State.finish_rcode, crcCode]
  split
  case isTrue => exact List.mem_cons_self
  case isFalse => exact List.mem_cons_of_mem _ List.mem_cons_self

theorem codeAllowed_selectCommand (id : Identifier) (s : State) : CodeAllowed .selectRom s (selectCommand id s) :=
  .inr (selectCommand_eq id s ▸ presenceCode_mem (s.level 0))

theorem codeAllowed_configCommand (id : Identifier) (s : State) : CodeAllowed .cfgdevRom s (configCommand id s) :=
  .inr (configCommand_eq id s ▸ presenceCode_mem (s.level 0))

theorem rcode_polling (id : Identifier) (es : List Event) (s : State) : (polling id es s).rcode = s.rcode :=
  State.bus_rcode es s

/-- `CONVRD` ends at either selection or stays in its poll (R201, R202). -/
theorem codeAllowed_convertCommand (id : Identifier) (s : State) :
    CodeAllowed .convrdRom s (convertCommand id s) := by
  rw [convertCommand_eq_afterConvert, afterConvert, afterPoll]
  split
  case isTrue => simp [CodeAllowed, resultCodes]
  case isFalse =>
    split
    case isTrue => exact .inl ⟨rfl, rfl, rcode_polling ..⟩
    case isFalse =>
      split
      case isTrue => simp [CodeAllowed, resultCodes]
      case isFalse => simp [CodeAllowed, resultCodes, afterSession]

theorem codeAllowed_searchCommand (s : State) : CodeAllowed .srchnxt s (searchCommand s) := by
  refine .inr ?_
  rw [searchCommand]
  split
  case isTrue => simp [resultCodes]
  case isFalse =>
    obtain (h | h) | h | h := searchPass_code s <;> simp [resultCodes, h]

theorem rcode_recordFound (s : State) : (recordFound s).rcode = s.rcode := by
  obtain h | ⟨-, es, h⟩ := recordFound_cases s <;> simp [h]

/-- An iteration ends the command before its pass, with the pass's failure, or after a found device, where it may stay
in flight (R215, R217, R218). -/
theorem codeAllowed_enumStep (s : State) : CodeAllowed .enumerate s (enumStep s) := by
  cases hmore : enumMore s with
  | false =>
    rw [enumStep, hmore, if_neg Bool.false_ne_true]
    exact .inr List.mem_cons_self
  | true =>
    obtain hfound | hfailed := searchPass_code s
    · rw [enumStep_found hmore hfound, enumNext]
      split
      case isTrue => exact .inl ⟨rfl, rfl, (rcode_recordFound _).trans (rcode_searchPass s)⟩
      case isFalse => exact .inr List.mem_cons_self
    · rw [enumStep_failed hmore hfailed]
      refine .inr ?_
      obtain h | h := hfailed <;> simp [resultCodes, h]

/-- What R232 says of every accepted command. -/
theorem codeAllowed_exec {i : Instr} {s t : State} (h : exec i s = .next t) : CodeAllowed i s t := by
  cases i <;> obtain rfl := Host.Outcome.next.inj h
  case owrst =>
    have hreset : resetCommand s = _ := Host.Outcome.next.inj (owrstEffect.2 s)
    exact .inr (hreset ▸ presenceCode_mem (s.level 0))
  case owrb | owwb | owrby | owwby | srchrst | tdec => exact .inr List.mem_cons_self
  case crc8Rom => exact codeAllowed_crcCommand s.rom s
  case crc8Rec idx => exact .withSelected (codeAllowed_crcCommand · s) rfl rfl
  case srchnxt => exact codeAllowed_searchCommand s
  case selectRom => exact codeAllowed_selectCommand s.rom s
  case selectRec idx => exact .withSelected (codeAllowed_selectCommand · s) rfl rfl
  case convrdRom => exact codeAllowed_convertCommand s.rom s
  case convrdRec idx => exact .withSelected (codeAllowed_convertCommand · s) rfl rfl
  case cfgdevRom => exact codeAllowed_configCommand s.rom s
  case cfgdevRec idx => exact .withSelected (codeAllowed_configCommand · s) rfl rfl
  case enumerate => exact codeAllowed_enumStep (State.clearSearch { s with nrec := 0 })

/-- Settles O56: every command answers a next state, with a code that `CodeAllowed` names. -/
theorem resultCodesOfCommands : Obligations.ResultCodesOfCommands := by
  intro i s
  obtain ⟨t, hexec⟩ := exec_next i s
  exact ⟨t, hexec, codeAllowed_exec hexec⟩

/-! ## No move, no command (R247) -/

theorem proceed_idle {s : State} (hidle : s.busy = false) : proceed s = s := by
  have hnone : s.inflight = none := by simpa [State.busy] using hidle
  rw [proceed, hnone]

/-- Settles O12: with no move the step is `proceed`, and no command in flight leaves nothing to go on with. -/
theorem idleControllerDoesNothing : Obligations.IdleControllerDoesNothing := by
  intro s hhost hidle
  rw [step_no_move hhost, proceed_idle hidle]

/-! ## No fault, no refusal (R230, R239) -/

theorem acceptWord_next (w : CmdWord) (s : State) : ∃ t, acceptWord w s = .next t := by
  unfold acceptWord
  split
  · exact exec_next _ s
  · exact ⟨_, rfl⟩

theorem hostWrite_next (n : Byte) (d : CmdWord) (s : State) : ∃ t, hostWrite n d s = .next t := by
  unfold hostWrite
  split
  case isTrue => exact acceptWord_next d s
  case isFalse => exact ⟨_, rfl⟩

theorem advance_next (s : State) : ∃ t, advance s = .next t := by
  unfold advance
  split
  case h_6 n rest hread =>
    split
    case isTrue => exact ⟨_, rfl⟩
    case isFalse => exact ⟨_, rfl⟩
  case h_7 n d rest hwrite =>
    split
    case isTrue => exact ⟨_, rfl⟩
    case isFalse => exact hostWrite_next n d _
  all_goals exact ⟨_, rfl⟩

/-- Settles O16: a step is `advance`, which answers a next state, or `advance` cut by a reset. -/
theorem everyStepAnswersNext : Obligations.EveryStepAnswersNext := by
  intro s
  unfold step cycle
  split
  case h_1 slots rest _ =>
    obtain ⟨t, ht⟩ := advance_next { s with host := rest }
    rw [ht]
    exact ⟨_, rfl⟩
  case h_2 => exact advance_next s

end Sys2Proof.Machine
end

section
/-! The reset and hazards family: the slots and the bus time of the sequences of R280, and the end of every command
without an unbounded loop within the 201 slots of a complete pass (R176, R281). -/

namespace Sys2Proof.Machine

/-! ## Slots of a command's sequences (R280) -/

theorem passEvents_length (s : State) (n : Nat) : (passEvents s n).length = 9 + 3 * n := by
  induction n with
  | zero => simp [passEvents, wroteByte_length]
  | succ n ih =>
    rw [passEvents_succ, List.length_append, ih]
    rfl

theorem configuredEvents_length (id : Identifier) : (configuredEvents id).length = 105 := by
  simp [configuredEvents, selectedEvents_length, wroteByte_length]

theorem configSlots_length_le (id : Identifier) (s : State) : (configSlots id s).length ≤ 105 := by
  rw [configSlots]
  split
  case isTrue => exact Nat.le_add_left 1 104
  case isFalse => exact (configuredEvents_length id).le

/-! ## Bus times (R132, R280) -/

/-- Every slot but a reset slot takes 70 microseconds. -/
theorem time_of_bitSlot {e : Event} (h : ∀ p, e ≠ .rst p) : e.time = 70 := by
  cases e with
  | rst p => exact absurd rfl (h p)
  | w b => cases b <;> rfl
  | r b => rfl

/-- A run of slots whose only reset slot is its first: 960 microseconds for that one, 70 for each of the others. -/
theorem busTime_rst_cons (p : Bool) {es : List Event} (h : ∀ q, .rst q ∉ es) :
    busTime (.rst p :: es) = 890 + 70 * (Event.rst p :: es).length := by
  have hrst : (Event.rst p).time = 960 := rfl
  have hbits : es.map Event.time = List.replicate es.length 70 :=
    List.map_eq_replicate_iff.2 fun e he => time_of_bitSlot fun q heq => h q (heq ▸ he)
  rw [busTime, List.map_cons, List.sum_cons, hrst, hbits, List.sum_replicate, smul_eq_mul, List.length_cons]
  omega

theorem busTime_passEvents (s : State) (n : Nat) : busTime (passEvents s n) = 1520 + 210 * n :=
  calc busTime (passEvents s n)
    _ = 890 + 70 * (passEvents s n).length := busTime_rst_cons true (by simp [wroteByte, tripletAt])
    _ = 1520 + 210 * n := by rw [passEvents_length]; omega

theorem busTime_selectedEvents (id : Identifier) : busTime (selectedEvents id) = 6000 :=
  calc busTime (selectedEvents id)
    _ = 890 + 70 * (selectedEvents id).length := busTime_rst_cons true (by simp [wroteByte, wroteIdentifier])
    _ = 6000 := by rw [selectedEvents_length]

theorem busTime_configuredEvents (id : Identifier) : busTime (configuredEvents id) = 8240 :=
  calc busTime (configuredEvents id)
    _ = 890 + 70 * (configuredEvents id).length := busTime_rst_cons true (by simp [wroteByte, wroteIdentifier])
    _ = 8240 := by rw [configuredEvents_length]

/-- Settles O58: a complete pass is `passEvents` up to position 64; the counts and times are those of the lemmas. -/
theorem slotCountsAndBusTimes : Obligations.SlotCountsAndBusTimes :=
  ⟨fun s => ⟨passEvents_length s 64, busTime_passEvents s 64⟩,
    fun id => ⟨selectedEvents_length id, busTime_selectedEvents id⟩,
    fun id => ⟨configuredEvents_length id, busTime_configuredEvents id⟩⟩

/-! ## The end of a command (R176, R281) -/

/-- A run from `s` has left the controller idle in `t`, after no more slots than a complete pass has. -/
structure EndsBounded (s t : State) : Prop where
  idle : t.busy = false
  slots : (newEvents s t).length ≤ 201

theorem EndsBounded.of_events {s t : State} {es : List Event} (hend : t.inflight = none)
    (hes : t.history = s.history ++ es) (hlen : es.length ≤ 201) : EndsBounded s t where
  idle := by rw [State.busy, hend, Option.isSome_none]
  slots := by rwa [newEvents_of_append hes]

/-- A command that ends without a slot. -/
theorem EndsBounded.of_no_slot {s t : State} (hend : t.inflight = none) (hsame : t.history = s.history) :
    EndsBounded s t :=
  .of_events (es := []) hend (hsame.trans (List.append_nil _).symm) (Nat.zero_le _)

/-- A rejected word leaves the controller as idle as it was (R100). -/
theorem endsBounded_reject {s : State} (hidle : s.busy = false) : EndsBounded s s.reject :=
  .of_no_slot (by simpa [State.busy] using hidle) rfl

theorem endsBounded_withSelected {s : State} (hidle : s.busy = false) (sel : Selector)
    {body : Identifier → State → State} (hbody : ∀ id, EndsBounded s (body id s)) :
    EndsBounded s (withSelected sel body s) := by
  obtain h | ⟨id, h⟩ := withSelected_cases sel body s
  · exact h ▸ endsBounded_reject hidle
  · exact h ▸ hbody id

theorem endsBounded_crcCommand (id : Identifier) (s : State) : EndsBounded s (crcCommand id s) :=
  .of_no_slot rfl rfl

theorem endsBounded_selectCommand (id : Identifier) (s : State) : EndsBounded s (selectCommand id s) := by
  rw [selectCommand_eq, afterSelect]
  refine .of_events rfl rfl ?_
  split
  case isTrue => exact Nat.le_add_left 1 200
  case isFalse => simp [selectedEvents_length]

theorem endsBounded_configCommand (id : Identifier) (s : State) : EndsBounded s (configCommand id s) :=
  configCommand_eq id s ▸ .of_events rfl rfl ((configSlots_length_le id s).trans (Nat.le_add_left 105 96))

/-- The slots of a pass: the reset slot alone, all 201, or those up to the first silent pair (R162, R169, R176). -/
theorem history_searchPass (s : State) : ∃ es, (searchPass s).2.history = s.history ++ es ∧ es.length ≤ 201 := by
  obtain ⟨-, h⟩ | ⟨-, -, h⟩ | ⟨k, hk, -, -, -, h⟩ := searchPass_cases s <;> rw [h]
  · exact ⟨[.rst false], rfl, Nat.le_add_left 1 200⟩
  · exact ⟨passEvents s 64, rfl, (passEvents_length s 64).le⟩
  · refine ⟨passEvents s k ++ [Event.r true, Event.r true], List.append_assoc .., ?_⟩
    rw [List.length_append, passEvents_length, List.length_cons, List.length_singleton]
    omega

theorem endsBounded_searchCommand {s : State} (hidle : s.busy = false) : EndsBounded s (searchCommand s) := by
  rw [searchCommand]
  split
  case isTrue => exact endsBounded_reject hidle
  case isFalse =>
    obtain ⟨es, hes, hlen⟩ := history_searchPass s
    exact .of_events rfl hes hlen

/-- R281, command by command: only `CONVRD` and `ENUM` have a loop without a bound. -/
theorem endsBounded_exec {i : Instr} {s t : State} (hbounded : mayHang i = false) (hidle : s.busy = false)
    (hexec : exec i s = .next t) : EndsBounded s t := by
  cases i
  case owrst =>
    obtain rfl := Host.Outcome.next.inj ((owrstEffect.2 s).symm.trans hexec)
    exact .of_events rfl rfl (Nat.le_add_left 1 200)
  case owrb =>
    obtain rfl := Host.Outcome.next.inj ((owrbEffect.2 s).symm.trans hexec)
    exact .of_events rfl rfl (Nat.le_add_left 1 200)
  case owwb b =>
    obtain rfl := Host.Outcome.next.inj ((owwbEffect.2.2 s b).symm.trans hexec)
    exact .of_events rfl rfl (Nat.le_add_left 1 200)
  case owrby =>
    obtain rfl := Host.Outcome.next.inj ((exec_owrby s).symm.trans hexec)
    exact .of_events rfl rfl (Nat.le_add_left 8 193)
  case owwby v =>
    obtain rfl := Host.Outcome.next.inj ((exec_owwby v s).symm.trans hexec)
    exact .of_events rfl rfl (Nat.le_add_left 8 193)
  case convrdRom | convrdRec | enumerate => nomatch hbounded
  all_goals obtain rfl := Host.Outcome.next.inj hexec
  case crc8Rom => exact endsBounded_crcCommand s.rom s
  case crc8Rec idx => exact endsBounded_withSelected hidle _ (endsBounded_crcCommand · s)
  case srchrst => exact .of_no_slot rfl rfl
  case srchnxt => exact endsBounded_searchCommand hidle
  case selectRom => exact endsBounded_selectCommand s.rom s
  case selectRec idx => exact endsBounded_withSelected hidle _ (endsBounded_selectCommand · s)
  case tdec => exact .of_no_slot rfl rfl
  case cfgdevRom => exact endsBounded_configCommand s.rom s
  case cfgdevRec idx => exact endsBounded_withSelected hidle _ (endsBounded_configCommand · s)

/-- Settles O57: every command answers a next state, and a bounded one ends in it. -/
theorem boundedCommandsEnd : Obligations.BoundedCommandsEnd := by
  intro i s hbounded hidle
  obtain ⟨t, hexec⟩ := exec_next i s
  obtain ⟨hdone, hslots⟩ := endsBounded_exec hbounded hidle hexec
  exact ⟨t, hexec, hdone, hslots⟩

end Sys2Proof.Machine
end

section
/-! What the decoder rejects, and the ten words the spec writes out. -/

namespace Sys2Proof.Machine

/-! ## Reserved opcodes (R99) -/

theorem toNat_opcodeField (w : CmdWord) : (opcodeField w).toNat = w.toNat / 256 := by
  rw [opcodeField, BitVec.extractLsb'_toNat, Nat.shiftRight_eq_div_pow]
  omega

theorem decode_reserved {w : CmdWord} (h : (opcodeField w).toNat = 0 ∨ 0x0E ≤ (opcodeField w).toNat) :
    decode w = .error (.reservedOpcode (opcodeField w)) := by
  unfold decode
  split
  case h_14 => rfl
  all_goals omega

/-- Settles O3: no row of the opcode map matches, so the decoder's last arm answers. -/
theorem reservedOpcodesRejected : Obligations.ReservedOpcodesRejected :=
  ⟨fun w h => decode_reserved (by rwa [toNat_opcodeField]), _, decode_reserved (.inl rfl)⟩

/-! ## Operand fields (R93 to R95, R100) -/

theorem acceptWord_of_error {w : CmdWord} {r : Reject} (h : decode w = .error r) (s : State) :
    acceptWord w s = .next { s with rcode := .illegal } := by
  rw [acceptWord, h]
  rfl

theorem acceptWord_of_ok {w : CmdWord} {i : Instr} (h : decode w = .ok i) (s : State) : acceptWord w s = exec i s := by
  rw [acceptWord, h]

theorem formatN_of_ne {x : Byte} (hx : x ≠ 0) (i : Instr) : formatN x i = .error (.mustBeZero x) := if_neg hx

/-- The opcodes of format N (R92). -/
theorem decode_formatN {op : Byte} (hop : op ∈ [0x01#8, 0x02#8, 0x04#8, 0x07#8, 0x08#8, 0x0B#8, 0x0D#8]) :
    ∃ i, ∀ x : Byte, decode (op ++ x) = formatN x i := by
  simp only [decode, opcodeField_append, operandField_append]
  simp only [List.mem_cons, List.not_mem_nil, or_false] at hop
  obtain rfl | rfl | rfl | rfl | rfl | rfl | rfl := hop
  · exact ⟨.owrst, fun _ => rfl⟩
  · exact ⟨.owrb, fun _ => rfl⟩
  · exact ⟨.owrby, fun _ => rfl⟩
  · exact ⟨.srchrst, fun _ => rfl⟩
  · exact ⟨.srchnxt, fun _ => rfl⟩
  · exact ⟨.tdec, fun _ => rfl⟩
  · exact ⟨.enumerate, fun _ => rfl⟩

theorem decode_owwbWord (x : Byte) : decode (0x03#8 ++ x) = formatB x .owwb := by
  simp only [decode, opcodeField_append, operandField_append]
  rfl

/-- The must-be-zero field of format B, by value. -/
theorem extractLsb'_high_eq_zero_iff (x : Byte) : x.extractLsb' 1 7 = 0#7 ↔ x.toNat / 2 = 0 := by
  rw [← BitVec.toNat_inj, BitVec.extractLsb'_toNat, Nat.shiftRight_eq_div_pow, BitVec.toNat_zero]
  omega

theorem formatB_of_high_zero {x : Byte} (h : x.toNat / 2 = 0) (mk : Bool → Instr) :
    formatB x mk = .ok (mk (x.getLsbD 0)) :=
  if_pos ((extractLsb'_high_eq_zero_iff x).2 h)

theorem formatB_of_high_ne {x : Byte} (h : x.toNat / 2 ≠ 0) (mk : Bool → Instr) :
    formatB x mk = .error (.mustBeZero x) :=
  if_neg (mt (extractLsb'_high_eq_zero_iff x).1 h)

/-- Settles O4: the two answers of each format's check; the word of format I is the encoder's. -/
theorem operandFieldsChecked : Obligations.OperandFieldsChecked := by
  refine ⟨fun op x hop => ?_, fun x => ⟨fun h => ?_, fun h s => ?_⟩, fun x => decode_encode (.owwby x)⟩
  · obtain ⟨i, hdec⟩ := decode_formatN hop
    refine ⟨?_, fun hx => acceptWord_of_error ((hdec x).trans (formatN_of_ne hx i))⟩
    simp [hdec, formatN_eq_ok_iff]
  · exact (decode_owwbWord x).trans (formatB_of_high_zero h _)
  · exact acceptWord_of_error ((decode_owwbWord x).trans (formatB_of_high_ne h _)) s

/-- Settles O5: each word is the encoder's for its command. -/
theorem listedWordsDecode : Obligations.ListedWordsDecode :=
  ⟨decode_encode .owrst, decode_encode (.owwb true), decode_encode (.owwby 0xF0), decode_encode .crc8Rom,
    decode_encode .srchnxt, decode_encode (.selectRec 1), decode_encode (.convrdRec 0), decode_encode .tdec,
    decode_encode .cfgdevRom, decode_encode .enumerate⟩

end Sys2Proof.Machine
end

section
/-! The host port: the command word and its rejection, the identifier selector, register accesses of an idle
controller, and the access that waits for a busy one. -/

namespace Sys2Proof.Machine

/-! ## The command port (R90, R96, R97, R100) -/

/-- Settles O6: a word that decodes is the encoder's, so `step_command` applies. -/
theorem stepRunsDecodedCommand : Obligations.StepRunsDecodedCommand := by
  intro s w rest i hhost hidle hdec
  obtain rfl := encode_of_decode hdec
  exact step_command hhost hidle

/-- Settles O8: `selected_illegal` and `selected_entry`; the buffer needs no check. -/
theorem selectorLegality : Obligations.SelectorLegality :=
  fun _ => ⟨rfl, fun _ => ⟨selected_illegal, fun hmax hn => selected_entry hn hmax⟩⟩

/-- A record form whose index is at or beyond `NREC` only sets `RCODE` (R97). -/
theorem withSelected_illegal {s : State} {idx : BitVec 7} (h : s.nrec.toNat ≤ idx.toNat)
    (body : Identifier → State → State) :
    Host.Outcome.next (withSelected (.entry idx) body s) =
      (.next { s with rcode := .illegal } : Host.Outcome State Fault Refusal) :=
  congrArg _ (withSelected_of_none (selected_illegal h) body)

/-- Settles O7: the decoder rejects the word, or the selector does. -/
theorem rejectedWordOnlySetsIllegal : Obligations.RejectedWordOnlySetsIllegal := by
  intro s w rest hhost hidle hbad
  have hstep : step s = acceptWord w { s with host := rest } := (step_write_idle hhost hidle).trans (if_pos rfl)
  rw [hstep]
  obtain ⟨r, herr⟩ | ⟨idx, hidx, hdec⟩ := hbad
  · exact acceptWord_of_error herr _
  · obtain hdec | hdec | hdec | hdec := hdec <;>
      exact (acceptWord_of_ok hdec _).trans (withSelected_illegal (s := { s with host := rest }) hidx _)

/-! ## Accesses of an idle controller (R40, R41) -/

theorem setIfInBounds_fin {α : Type} {n : Nat} (xs : Vector α n) (i : Fin n) (x : α) :
    xs.setIfInBounds i x = xs.set i x :=
  Vector.ext fun j hj => by rw [Vector.getElem_setIfInBounds, Vector.getElem_set]

theorem writeReg_rom {n : Byte} {i : Fin 8} (h : n.toNat = 0x10 + i.val) (v : Byte) (s : State) :
    s.writeReg n v = { s with rom := s.rom.set i v } := by
  have hi : n.toNat - 0x10 = i.val := by omega
  rw [State.writeReg, if_pos (by omega), hi, setIfInBounds_fin]

theorem writeReg_ignored {n : Byte} (h : n.toNat < 0x10 ∨ 0x18 ≤ n.toNat) (v : Byte) (s : State) :
    s.writeReg n v = s :=
  if_neg (by omega)

/-- Settles O11: a read is `hostRead`; a write goes to `writeReg`, which knows `ROM[i]` only. -/
theorem hostAccessWhileIdle : Obligations.HostAccessWhileIdle := by
  refine fun s n rest hidle => ⟨fun hhost => step_read_idle hhost hidle, fun d hhost hport => ?_⟩
  have hstep : step s = .next (State.writeReg { s with host := rest } n (d.setWidth 8)) :=
    (step_write_idle hhost hidle).trans (if_neg hport)
  rw [hstep]
  exact ⟨fun i hi => congrArg _ (writeReg_rom hi _ _), fun hn => congrArg _ (writeReg_ignored hn _ _)⟩

/-! ## A busy controller (R42, R246) -/

theorem sameEnv_proceed (s : State) : SameEnv s (proceed s) := by
  unfold proceed
  split
  case h_1 f _ =>
    cases f with
    | poll id => exact (sameSearch_pollStep id s).toSameEnv
    | enumerate => exact sameEnv_enumStep s
  case h_2 => exact (sameSearch_refl s).toSameEnv

/-- Settles O9: the step is `proceed`, which leaves the host's queue and the delivered reads alone. -/
theorem hostWaitsWhileBusy : Obligations.HostWaitsWhileBusy := by
  intro s m rest hhost hm hbusy
  have hframe := sameEnv_proceed s
  refine ⟨step_busy_waits hbusy ?_, hframe.host.trans hhost, hframe.hostReads⟩
  obtain ⟨n, d, rfl⟩ | ⟨n, rfl⟩ := hm
  · exact .inl ⟨n, d, rest, hhost⟩
  · exact .inr ⟨n, rest, hhost⟩

end Sys2Proof.Machine
end

section
/-! The reset of the whole controller, between two steps and inside one, and the critical section of a slot. -/

namespace Sys2Proof.Machine

/-! ## Reset (R45, R260) -/

/-- Settles O49: a hardware reset of the reset state leaves it as it is, and every hardware reset leaves `Inv`. -/
theorem invAtReset : Obligations.InvAtReset := inv_hwReset State.reset

/-- Settles O14: `hwReset` takes the registers from `State.reset` and keeps the rest. -/
theorem hardwareReset : Obligations.HardwareReset := by
  intro s rest hhost
  refine ⟨_, step_reset hhost, fun i h => ?_, rfl, rfl, rfl, rfl, fun n j hn hj => ?_, rfl, rfl, rfl, rfl, rfl, rfl,
    rfl, rfl, rfl, rfl, rfl, rfl, rfl, State.level_congr rfl rfl⟩
  · exact Vector.getElem_replicate h
  · rw [State.hwReset_record, State.reset, Vector.getElem_replicate, Vector.getElem_replicate]

theorem step_resetAfter {s t : State} {slots : Nat} {rest : List HostMove} (hhost : s.host = .resetAfter slots :: rest)
    (hadv : advance { s with host := rest } = .next t) :
    step s = .next (cutByReset slots { s with host := rest } t) := by
  simp only [step, cycle, hhost, hadv]

/-- The answers of the slots before the reset are taken, and no other. -/
theorem level_cutByReset (slots k : Nat) (s t : State) :
    (cutByReset slots s t).level k = s.level (askCount ((newEvents s t).take slots) + k) :=
  (State.level_congr rfl rfl k).trans (State.level_skip _ k s)

/-- Settles O15: `step_resetAfter`; `cutByReset` is the state named, and `level_cutByReset` its answers. -/
theorem resetCutsRunningStep : Obligations.ResetCutsRunningStep := by
  intro s t slots rest hhost hadv
  exact ⟨_, step_resetAfter hhost hadv, rfl, fun k => level_cutByReset slots k { s with host := rest } t⟩

/-! ## The critical section of a slot (R130) -/

/-- A slot's program: its body between the two actions of the critical section. -/
def criticalSection (body : List LineAction) : List LineAction := .enterCritical :: (body ++ [.exitCritical])

theorem imask_run {act : LineAction} (hact : act ≠ .exitCritical) {r : SlotRun} (hr : r.st.imask = true) :
    (act.run r).st.imask = true := by
  cases act with
  | exitCritical => contradiction
  | enterCritical => rfl
  | sample => rw [LineAction.run, takeLevel_snd]; exact hr
  | driveLow | release | delay => exact hr

theorem imask_foldl {acts : List LineAction} (hacts : .exitCritical ∉ acts) {r : SlotRun} (hr : r.st.imask = true) :
    (acts.foldl (fun r act => act.run r) r).st.imask = true := by
  induction acts generalizing r with
  | nil => exact hr
  | cons act acts ih =>
    obtain ⟨hact, hacts⟩ := not_or.1 (mt List.mem_cons.2 hacts)
    exact ih hacts (imask_run (Ne.symm hact) hr)

/-- After every action but the last interruption is disabled: the first one masks it, and only the last one would
unmask it. -/
theorem imask_take_criticalSection {body : List LineAction} (hbody : .exitCritical ∉ body) (s : State) {n : Nat}
    (h0 : 0 < n) (hn : n < (criticalSection body).length) :
    (runActions ((criticalSection body).take n) s).st.imask = true := by
  obtain ⟨m, rfl⟩ := Nat.exists_eq_succ_of_ne_zero h0.ne'
  have hm : m ≤ body.length := by simp [criticalSection] at hn; omega
  have htake : (criticalSection body).take (m + 1) = .enterCritical :: body.take m := by
    rw [criticalSection, List.take_succ_cons, List.take_append_of_le_length hm]
  rw [Nat.succ_eq_add_one, htake]
  exact imask_foldl (fun h => hbody (List.mem_of_mem_take h)) rfl

/-- A slot whose log is in the normal form leaves `IMASK` as it was and the line released. -/
theorem end_of_log {s t : State} {e : Event} {es : List Event} (h : t.log e = s.bus es) :
    t.imask = s.imask ∧ t.drv = false :=
  ⟨(congrArg State.imask h :), (congrArg State.drv h :)⟩

theorem end_writeSlot (b : Bool) (s : State) :
    (runActions (writeSlot b) s).st.imask = s.imask ∧ (runActions (writeSlot b) s).st.drv = false :=
  end_of_log (busWrite_eq b s)

/-- The four slot programs, each with its body and what it leaves at its end. -/
theorem slot_cases {acts : List LineAction} (h : acts ∈ [resetSlot, readSlot, writeSlot false, writeSlot true]) :
    (∃ body, .exitCritical ∉ body ∧ acts = criticalSection body) ∧
      ∀ s, (runActions acts s).st.imask = s.imask ∧ (runActions acts s).st.drv = false := by
  simp only [List.mem_cons, List.not_mem_nil, or_false] at h
  obtain rfl | rfl | rfl | rfl := h
  · exact ⟨⟨[.delay .g, .driveLow, .delay .h, .release, .delay .i, .sample, .delay .j], by decide, rfl⟩,
      fun s => end_of_log (congrArg Prod.snd (busReset_eq s))⟩
  · exact ⟨⟨[.driveLow, .delay .a, .release, .delay .e, .sample, .delay .f], by decide, rfl⟩,
      fun s => end_of_log (congrArg Prod.snd (busRead_eq s))⟩
  · exact ⟨⟨[.driveLow, .delay .c, .release, .delay .d], by decide, rfl⟩, end_writeSlot false⟩
  · exact ⟨⟨[.driveLow, .delay .a, .release, .delay .b], by decide, rfl⟩, end_writeSlot true⟩

/-- Settles O17: each slot is a critical section around a body that does not leave it. -/
theorem slotsRunInCriticalSections : Obligations.SlotsRunInCriticalSections := by
  intro acts hacts s
  obtain ⟨⟨body, hbody, rfl⟩, hend⟩ := slot_cases hacts
  exact ⟨fun n => imask_take_criticalSection hbody s, hend s⟩

end Sys2Proof.Machine
end

section
/-! What single commands do and which of them write a register: `SRCHNXT` past the last device, `CFGDEV`, the writers
of the result registers and of the Sensor Record. -/

namespace Sys2Proof.Machine

/-! ## `SRCHNXT` past the last device (R170) and `CFGDEV` (R213) -/

/-- Settles O31: the precondition of the pass fails, which is all the command tests. -/
theorem srchnxtRejectedAfterLastDevice : Obligations.SrchnxtRejectedAfterLastDevice :=
  fun s hldf => congrArg (Host.Outcome.next (φ := Fault) (ρ := Refusal)) (if_pos hldf : searchCommand s = s.reject)

/-- What `CFGDEV` leaves for an identifier. -/
def afterConfig (id : Identifier) (s : State) : State :=
  { s.bus (configSlots id s) with rcode := if s.level 0 then .busAbsent else .ok, inflight := none }

/-- Settles O38: `configCommand_eq` on each form of the selector. -/
theorem cfgdevEffect : Obligations.CfgdevEffect := by
  intro s
  obtain ⟨hrom, hentry, hillegal⟩ := withSelected_forms (after := afterConfig) s (configCommand_eq · s)
  exact ⟨congrArg _ hrom, fun idx hm hn => congrArg _ (hentry idx hm hn),
    fun idx hn => congrArg _ (hillegal idx hn)⟩

/-! ## The writers of the result registers (R23, R26, R27) -/

/-- The values of the registers a command's result is read from. -/
structure Results where
  pres : Bool
  bit : Bool
  res : Byte
  sp0 : Byte
  sp1 : Byte
  temp : Byte

def State.results (s : State) : Results := ⟨s.pres, s.bit, s.res, s.sp0, s.sp1, s.temp⟩

/-- What a command that leaves `t` can have written of the result registers of `s`. -/
inductive ResultWrite (s t : State) : Instr → Prop where
  | nothing {i : Instr} (h : t.results = s.results) : ResultWrite s t i
  | presence {i : Instr} (hi : i = .owrst ∨ i = .selectRom ∨ ∃ idx, i = .selectRec idx) (p : Bool)
      (h : t.results = { s.results with pres := p }) : ResultWrite s t i
  | sample (b : Bool) (h : t.results = { s.results with bit := b }) : ResultWrite s t .owrb
  | byte {i : Instr} (hi : i = .owrby ∨ i = .crc8Rom ∨ ∃ idx, i = .crc8Rec idx) (v : Byte)
      (h : t.results = { s.results with res := v }) : ResultWrite s t i
  | scratchpad {i : Instr} (hi : i = .convrdRom ∨ ∃ idx, i = .convrdRec idx) (hok : t.rcode = .ok) (low high : Byte)
      (h : t.results = { s.results with sp0 := low, sp1 := high }) : ResultWrite s t i
  | temperature (v : Byte) (h : t.results = { s.results with temp := v }) : ResultWrite s t .tdec

/-- A selector command writes what its body writes. -/
theorem resultWrite_withSelected {i : Instr} {sel : Selector} {body : Identifier → State → State} {s : State}
    (hbody : ∀ id, ResultWrite s (body id s) i) : ResultWrite s (withSelected sel body s) i := by
  obtain h | ⟨id, h⟩ := withSelected_cases sel body s <;> rw [h]
  · exact .nothing rfl
  · exact hbody id

theorem results_configCommand (id : Identifier) (s : State) : (configCommand id s).results = s.results := by
  rw [configCommand_eq]
  rfl

theorem results_selectCommand (id : Identifier) (s : State) :
    (selectCommand id s).results = { s.results with pres := !s.level 0 } := by
  rw [selectCommand_eq]
  rfl

/-- `CONVRD` writes the scratchpad pair when its session completes, and nothing before (R200, R202). -/
theorem resultWrite_convertCommand {i : Instr} (hi : i = .convrdRom ∨ ∃ idx, i = .convrdRec idx) (id : Identifier)
    (s : State) : ResultWrite s (convertCommand id s) i := by
  rw [convertCommand_eq_afterConvert, afterConvert, afterPoll]
  split
  case isTrue => exact .nothing (by simp [State.results])
  case isFalse =>
    split
    case isTrue => exact .nothing (by simp [State.results, polling])
    case isFalse =>
      split
      case isTrue => exact .nothing (by simp [State.results])
      case isFalse => exact .scratchpad hi rfl (byteAt s 3) (byteAt s 11) (by simp [State.results, afterSession])

theorem results_passState (s : State) (n : Nat) : (passState s n).results = s.results := rfl

theorem results_completePass (lastZero : Nat) (s : State) : (completePass lastZero s).results = s.results := rfl

theorem results_searchPass (s : State) : (searchPass s).2.results = s.results := by
  obtain ⟨-, h⟩ | ⟨-, -, h⟩ | ⟨k, -, -, -, -, h⟩ := searchPass_cases s <;> rw [h]
  · rfl
  · exact (results_completePass _ _).trans (results_passState s 64)
  · exact results_passState s k

theorem results_searchCommand (s : State) : (searchCommand s).results = s.results := by
  unfold searchCommand
  split
  case isTrue => rfl
  case isFalse => exact results_searchPass s

theorem results_recordFound (s : State) : (recordFound s).results = s.results := by
  obtain h | ⟨-, es, h⟩ := recordFound_cases s <;> rw [h]
  rfl

theorem results_enumNext (s : State) : (enumNext s).results = s.results := by
  unfold enumNext
  split <;> rfl

theorem results_enumStep (s : State) : (enumStep s).results = s.results := by
  obtain ⟨-, h⟩ | ⟨-, c, h⟩ | ⟨-, h⟩ := enumStep_cases s <;> rw [h]
  · rfl
  · exact results_searchPass s
  · exact (results_enumNext _).trans ((results_recordFound _).trans (results_searchPass s))

/-- Every command is one of the writers, or writes none of them. -/
theorem resultWrite_exec {i : Instr} {s t : State} (h : exec i s = .next t) : ResultWrite s t i := by
  cases i <;> obtain rfl := Host.Outcome.next.inj h
  case owrst =>
    have hreset : resetCommand s = _ := Host.Outcome.next.inj (owrstEffect.2 s)
    exact .presence (.inl rfl) (!s.level 0) (hreset ▸ rfl)
  case owrb => exact .sample (s.level 0) (by simp [State.results, busRead_eq])
  case owwb b => exact .nothing (by simp [State.results, busWrite_eq])
  case owrby => exact .byte (.inl rfl) (byteOfBits (s.levels 0 8)) (by simp [State.results, readByte_eq])
  case owwby v => exact .nothing (by simp [State.results, writeByte_eq])
  case crc8Rom => exact .byte (.inr (.inl rfl)) (crc8 s.rom) rfl
  case crc8Rec idx => exact resultWrite_withSelected fun id => .byte (.inr (.inr ⟨idx, rfl⟩)) (crc8 id) rfl
  case srchrst => exact .nothing rfl
  case srchnxt => exact .nothing (results_searchCommand s)
  case selectRom => exact .presence (.inr (.inl rfl)) _ (results_selectCommand s.rom s)
  case selectRec idx =>
    exact resultWrite_withSelected fun id => .presence (.inr (.inr ⟨idx, rfl⟩)) _ (results_selectCommand id s)
  case convrdRom => exact resultWrite_convertCommand (.inl rfl) s.rom s
  case convrdRec idx => exact resultWrite_withSelected (resultWrite_convertCommand (.inr ⟨idx, rfl⟩) · s)
  case tdec => exact .temperature (decodeTemp s.sp0 s.sp1) rfl
  case cfgdevRom => exact .nothing (results_configCommand s.rom s)
  case cfgdevRec idx => exact resultWrite_withSelected fun id => .nothing (results_configCommand id s)
  case enumerate => exact .nothing (results_enumStep _)

/-- Settles O53: by `resultWrite_exec`; each writer leaves the other result registers alone. -/
theorem resultRegisterWriters : Obligations.ResultRegisterWriters := by
  intro i s t hexec
  cases resultWrite_exec hexec with
  | nothing h => simp only [State.results, Results.mk.injEq] at h; simp [h]
  | presence hi p h => simp only [State.results, Results.mk.injEq] at h; simp [h, hi]
  | sample b h => simp only [State.results, Results.mk.injEq] at h; simp [h]
  | byte hi v h => simp only [State.results, Results.mk.injEq] at h; simp [h, hi]
  | scratchpad hi hok low high h => simp only [State.results, Results.mk.injEq] at h; simp [h, hi, hok]
  | temperature v h => simp only [State.results, Results.mk.injEq] at h; simp [h]

/-! ## The writer of the Sensor Record (R33) -/

/-- A found device becomes the entry before the new `NREC`: what lies at or beyond it is as it was. -/
theorem getElem_record_recordFound {s : State} (hroom : s.nrec.toNat < Config.maxDev) {n : Nat}
    (h : n < Config.maxDev) (hn : (recordFound s).nrec.toNat ≤ n) :
    (recordFound s).record[n] = s.record[n] := by
  obtain hfound | ⟨-, es, hfound⟩ := recordFound_cases s <;> simp only [hfound] at hn ⊢
  have hmax : Config.maxDev = 3 := rfl
  have hsucc : (s.nrec + 1).toNat = s.nrec.toNat + 1 := by
    rw [BitVec.toNat_add]; simp; omega
  simp only [State.bus_nrec, hsucc] at hn
  exact Vector.getElem_setIfInBounds_ne _ (by omega)

theorem enumNext_record (s : State) : (enumNext s).nrec = s.nrec ∧ (enumNext s).record = s.record := by
  unfold enumNext
  split <;> exact ⟨rfl, rfl⟩

theorem getElem_record_enumStep (s : State) {n : Nat} (h : n < Config.maxDev) (hn : (enumStep s).nrec.toNat ≤ n) :
    (enumStep s).record[n] = s.record[n] := by
  have hpass := sameRecord_searchPass s
  obtain ⟨-, hstep⟩ | ⟨-, c, hstep⟩ | ⟨hmore, hstep⟩ := enumStep_cases s <;> simp only [hstep] at hn ⊢
  · rfl
  · simp only [State.finish_record, hpass.record]
  · obtain ⟨hnrec, hrecord⟩ := enumNext_record (recordFound (searchPass s).2)
    have hroom : (searchPass s).2.nrec.toNat < Config.maxDev := hpass.nrec ▸ ((enumMore_iff s).1 hmore).1
    simp only [hnrec, hrecord] at hn ⊢
    rw [getElem_record_recordFound hroom h hn]
    simp only [hpass.record]

/-- The Sensor Record after a step: as it was, or as an iteration of `ENUM` left it, run from the same entries. -/
inductive RecordStep (enumRuns : Prop) (s t : State) : Prop where
  | same (hnrec : t.nrec = s.nrec) (hrecord : t.record = s.record)
  | iteration (henum : enumRuns) (u : State) (hrecord : u.record = s.record) (h : t = enumStep u)

theorem RecordStep.imp {p q : Prop} {s s' t : State} (h : RecordStep p s t) (hpq : p → q)
    (hnrec : s.nrec = s'.nrec := by rfl) (hrecord : s.record = s'.record := by rfl) : RecordStep q s' t := by
  obtain ⟨hn, hr⟩ | ⟨hp, u, hu, ht⟩ := h
  · exact .same (hn.trans hnrec) (hr.trans hrecord)
  · exact .iteration (hpq hp) u (hu.trans hrecord) ht

theorem recordStep_proceed (s : State) : RecordStep (s.inflight = some .enumerate) s (proceed s) := by
  unfold proceed
  split
  case h_1 f hf =>
    cases f with
    | poll id =>
      have h := sameSearch_pollStep id s
      exact .same h.nrec h.record
    | enumerate => exact .iteration hf s rfl rfl
  case h_2 => exact .same rfl rfl

theorem recordStep_exec {i : Instr} {s t : State} (h : exec i s = .next t) : RecordStep (i = .enumerate) s t := by
  by_cases hi : i = .enumerate
  · subst hi
    exact .iteration rfl (State.clearSearch { s with nrec := 0 }) rfl (Host.Outcome.next.inj h).symm
  · obtain ⟨-, -, -, hwriter, -⟩ := searchRegisterWriters i s t h
    obtain ⟨hnrec, hrecord⟩ := not_or.1 (mt hwriter hi)
    exact .same (not_not.1 hnrec) (not_not.1 hrecord)

theorem recordStep_hostWrite {n : Byte} {d : CmdWord} {s t : State} (h : hostWrite n d s = .next t) :
    RecordStep (n = 0xFF ∧ decode d = .ok .enumerate) s t := by
  unfold hostWrite acceptWord at h
  split at h
  case isTrue hport =>
    split at h
    case h_1 i hdec =>
      exact (recordStep_exec h).imp fun henum => ⟨hport, henum ▸ hdec⟩
    case h_2 =>
      obtain rfl := Host.Outcome.next.inj h
      exact .same rfl rfl
  case isFalse =>
    obtain rfl := Host.Outcome.next.inj h
    rw [State.writeReg_eq]
    exact .same rfl rfl

/-- An `ENUM` is in flight or is the word the host writes next. -/
def EnumRuns (s : State) : Prop :=
  s.inflight = some .enumerate ∨ ∃ w rest, s.host = .write 0xFF w :: rest ∧ decode w = .ok .enumerate

theorem recordStep_step {s t : State} (h : step s = .next t) (hreset : ¬ resetNext s) :
    RecordStep (EnumRuns s) s t := by
  obtain rfl | ⟨rest, -, rfl⟩ | ⟨b, rest, -, rfl⟩ | ⟨hr, -⟩ | ⟨n, rest, -, -, rfl⟩ | ⟨n, d, rest, hm, -, hw⟩ :=
    step_cases h
  · exact (recordStep_proceed s).imp .inl
  · exact (recordStep_proceed { s with host := rest }).imp .inl
  · exact .same rfl rfl
  · exact absurd hr hreset
  · exact .same rfl rfl
  · exact (recordStep_hostWrite hw).imp fun ⟨hport, hdec⟩ => .inr ⟨d, rest, hport ▸ hm, hdec⟩

/-- Settles O55: by `recordStep_step`; an iteration of `ENUM` writes below the new `NREC` only. -/
theorem onlyEnumChangesTheRecord : Obligations.OnlyEnumChangesTheRecord := by
  intro s t hstep hreset
  obtain ⟨hnrec, hrecord⟩ | ⟨henum, u, hu, rfl⟩ := recordStep_step hstep hreset
  · exact ⟨by simp [hnrec, hrecord], fun n h _ => by simp only [hrecord]⟩
  · refine ⟨fun _ => henum, fun n h hn => ?_⟩
    rw [getElem_record_enumStep u h hn]
    simp only [hu]

end Sys2Proof.Machine
end
